-- ==== Sys2Proof/Word.lean ====
section
/-! DEFINITION. The machine's word and byte types.
Every key, tweak, subkey and block word is an unsigned 64-bit value (R5); the window is seen by
bytes only through its byte lanes (R66). All arithmetic on a `Word` wraps modulo 2^64 (R13). -/

namespace Sys2Proof

/-- A 64-bit word: a register, key word, tweak word, subkey word or block word (R5). -/
abbrev Word := BitVec 64

/-- One byte of a register, or of the document's byte sequences (R14, R66). -/
abbrev Byte := BitVec 8

end Sys2Proof
end

