-- ==== Sys2Proof/Syntax.lean ====
section
/-! DEFINITION. The syntax of the engine's commands: one constructor per row of the opcode table.
The two operands of every command are its 16-bit length fields, as the word carries them (R91, R93). -/

namespace Sys2Proof

/-- A command of the engine (R92). -/
inductive Instr where
  /-- CONSTRUCT: key length and tweak length in bytes (R184). -/
  | construct (lenA lenB : BitVec 16)
  /-- ENCRYPT: source length and destination length in bytes (R185). -/
  | encrypt (lenA lenB : BitVec 16)
  /-- DECRYPT: source length and destination length in bytes (R186). -/
  | decrypt (lenA lenB : BitVec 16)
  deriving DecidableEq, Repr

namespace Instr

/-- LEN_A, bits 23..8 of the command word (R93). -/
def lenA : Instr → BitVec 16
  | construct a _ => a
  | encrypt a _ => a
  | decrypt a _ => a

/-- LEN_B, bits 39..24 of the command word (R93). -/
def lenB : Instr → BitVec 16
  | construct _ b => b
  | encrypt _ b => b
  | decrypt _ b => b

end Instr

end Sys2Proof
end

