-- ==== Sys2Proof/Decode.lean ====
section
/-! DEFINITION. Decoding a command word, total and rejecting by name, and after it the encoder
(R90 to R97). -/

namespace Sys2Proof

/-- Why a command word is ILLEGAL (R95). -/
inductive Illegal where
  /-- RSV0, bits 7..4, or RSV1, bits 63..40, is not zero. -/
  | reservedBits
  /-- OP is 0x0 or 0x4 to 0xF. -/
  | reservedOp
  deriving DecidableEq, Repr

/-- OP, bits 3..0 (R91). -/
def fieldOp (w : Word) : BitVec 4 := w.extractLsb' 0 4
/-- RSV0, bits 7..4 (R91). -/
def fieldRsv0 (w : Word) : BitVec 4 := w.extractLsb' 4 4
/-- LEN_A, bits 23..8 (R91, R93). -/
def fieldLenA (w : Word) : BitVec 16 := w.extractLsb' 8 16
/-- LEN_B, bits 39..24 (R91, R93). -/
def fieldLenB (w : Word) : BitVec 16 := w.extractLsb' 24 16
/-- RSV1, bits 63..40 (R91). -/
def fieldRsv1 (w : Word) : BitVec 24 := w.extractLsb' 40 24

/-- The decoder of R96. `Except.error` is R96's ILLEGAL, with the reason named. -/
def decode (w : Word) : Except Illegal Instr :=
  if fieldRsv0 w ≠ 0#4 ∨ fieldRsv1 w ≠ 0#24 then .error .reservedBits
  else if fieldOp w = 0x1#4 then .ok (.construct (fieldLenA w) (fieldLenB w))
  else if fieldOp w = 0x2#4 then .ok (.encrypt (fieldLenA w) (fieldLenB w))
  else if fieldOp w = 0x3#4 then .ok (.decrypt (fieldLenA w) (fieldLenB w))
  else .error .reservedOp

/-- The OP value of a command (R92). -/
def Instr.op : Instr → BitVec 4
  | .construct _ _ => 0x1#4
  | .encrypt _ _ => 0x2#4
  | .decrypt _ _ => 0x3#4

/-- The command word with the five fields of R91, the most significant first:
RSV1, LEN_B, LEN_A, RSV0, OP. -/
def packCommand (rsv1 : BitVec 24) (lenB lenA : BitVec 16) (rsv0 op : BitVec 4) : Word :=
  rsv1 ++ lenB ++ lenA ++ rsv0 ++ op

/-- The command word of a command (R91, R92, R100). -/
def encode (i : Instr) : Word := packCommand 0#24 i.lenB i.lenA 0#4 i.op

/-- A word of the opcode table, numbered as the table numbers it, given to the decoder. A command is
one 64-bit word with bit 0 least significant (R11, R90), so its number is its value; bits above
`nbits` are 0. -/
def decodeTableWord (nbits w : Nat) : Option Instr :=
  match decode (BitVec.ofNat 64 (w % 2 ^ nbits)) with
  | .ok i => some i
  | .error _ => none

end Sys2Proof
end

