-- ==== Sys2Proof/Config.lean ====
section
/-! DEFINITION. What an implementation fixes (the variant, the window's place, the latencies) and the
free values: constants with no body, standing for what the spec leaves unspecified. -/

namespace Sys2Proof

/-- The build-time parameter VARIANT, the block size in bits (R3). -/
inductive Variant where
  | v256
  | v512
  | v1024
  deriving DecidableEq, Repr

namespace Variant

/-- The block size in bits (R3). -/
def bits : Variant → Nat
  | v256 => 256
  | v512 => 512
  | v1024 => 1024

/-- NW, the number of 64-bit words in a block (R4). -/
def nw : Variant → Nat
  | v256 => 4
  | v512 => 8
  | v1024 => 16

/-- NR, the number of rounds (R4). -/
def nr : Variant → Nat
  | v256 => 72
  | v512 => 72
  | v1024 => 80

/-- NS, the number of subkey groups (R4). -/
def ns (v : Variant) : Nat := v.nr / 4 + 1

/-- BLOCK_BYTES, the block size in bytes (R4). -/
def blockBytes (v : Variant) : Nat := 8 * v.nw

/-- KEY_BYTES, the key size in bytes (R4). -/
def keyBytes (v : Variant) : Nat := 8 * v.nw

/-- TWEAK_BYTES, the tweak size in bytes, the same in every variant (R4). -/
def tweakBytes (_ : Variant) : Nat := 16

end Variant

namespace Config

/-- The variant of the machine that `Machine.State.reset` is. Every definition of the model takes
the variant from the state, so the three variants are all modelled (R3).
DESIGN CHOICE, unsafe: see notes/assumptions/1. -/
def variant : Variant := .v256

/-- BASE / 4096, an open platform parameter (R6, R60). A free value: no proof can see it. -/
opaque basePage : Nat

/-- BASE, the bus address of the register window, a multiple of 4096 (R60). -/
def base : Nat := 4096 * basePage

/-- LAT_CONSTRUCT - 1, an open parameter (R6, R256). -/
opaque latConstructLess1 : Variant → Nat
/-- LAT_ENCRYPT - 1, an open parameter (R6, R256). -/
opaque latEncryptLess1 : Variant → Nat
/-- LAT_DECRYPT - 1, an open parameter (R6, R256). -/
opaque latDecryptLess1 : Variant → Nat
/-- LAT_REJECT - 1, an open parameter (R6, R256). -/
opaque latRejectLess1 : Variant → Nat

/-- LAT_CONSTRUCT, at least one cycle (R256). -/
def latConstruct (v : Variant) : Nat := latConstructLess1 v + 1
/-- LAT_ENCRYPT, at least one cycle (R256). -/
def latEncrypt (v : Variant) : Nat := latEncryptLess1 v + 1
/-- LAT_DECRYPT, at least one cycle (R256). -/
def latDecrypt (v : Variant) : Nat := latDecryptLess1 v + 1
/-- LAT_REJECT, at least one cycle (R256). -/
def latReject (v : Variant) : Nat := latRejectLess1 v + 1

/-- Word `i` of the value V is left with, where the spec leaves V unspecified (R39, R44). The first
argument is the state's counter of free values. See notes/assumptions/4 and 5. -/
opaque freeV : Nat → Nat → Word

/-- The value D is left with, where the spec leaves D unspecified (R39, R44), before it is
brought into D's range. See notes/assumptions/4 and 5. -/
opaque freeD : Nat → Nat

/-- Word `i` of group `s` of KS after a reset event (R44: unspecified). See notes/assumptions/5. -/
opaque freeKs : Nat → Nat → Nat → Word

/-- LATCH.cmd after a reset event (R44: unspecified). See notes/assumptions/5. -/
opaque freeLatchCmd : Nat → Word

/-- Word `j` of LATCH.key after a reset event (R44: unspecified). See notes/assumptions/5. -/
opaque freeLatchKey : Nat → Nat → Word

/-- Word `j` of LATCH.tweak after a reset event (R44: unspecified). See notes/assumptions/5. -/
opaque freeLatchTweak : Nat → Nat → Word

/-- Word `j` of LATCH.data after a reset event (R44: unspecified). See notes/assumptions/5. -/
opaque freeLatchData : Nat → Nat → Word

end Config

end Sys2Proof
end

