-- ==== Sys2Proof/Machine/KeySchedule.lean ====
section
/-! DEFINITION. The Key Scheduler: KEYEXT, TWEAKEXT, SUBKEY and SCHEDULE (R120 to R130). -/

namespace Sys2Proof.Machine

/-- The key-schedule constant C (R122). -/
def keyConst : Word := 0x1BD11BDAA9FC1A22#64

/-- KEYEXT: the NW key words and the extension word kx[NW] (R123). -/
def keyExt (k : List Word) : List Word := k ++ [k.foldl (fun x w => x ^^^ w) keyConst]

/-- TWEAKEXT: t[0], t[1] and t[0] ^ t[1] (R124). -/
def tweakExt (t : Vector Word 2) : List Word := [t[0], t[1], t[0] ^^^ t[1]]

/-- SUBKEY: word `i` of subkey group `s` (R125). -/
def subkey (v : Variant) (kx tx : List Word) (s i : Nat) : Word :=
  let w := kx.getD ((s + i) % (v.nw + 1)) 0#64
  if i = v.nw - 3 then w + tx.getD (s % 3) 0#64
  else if i = v.nw - 2 then w + tx.getD ((s + 1) % 3) 0#64
  else if i = v.nw - 1 then w + BitVec.ofNat 64 s
  else w

/-- Subkey group `s`, NW words (R127). -/
def subkeyGroup (v : Variant) (kx tx : List Word) (s : Nat) : List Word :=
  (List.range v.nw).map (subkey v kx tx s)

/-- SCHEDULE: the NS = NR/4 + 1 subkey groups (R127). -/
def schedule (v : Variant) (k : List Word) (t : Vector Word 2) : List (List Word) :=
  (List.range v.ns).map (subkeyGroup v (keyExt k) (tweakExt t))

end Sys2Proof.Machine
end

