-- ==== Sys2Proof/Machine/State.lean ====
section
/-! DEFINITION. The state of one engine and of the bus in front of it, as plain data, and the state
after reset (R20, R44). -/

namespace Sys2Proof.Machine

/-- ST, the facade's construction state (R36). -/
inductive ConstructState where
  | uninit
  | constructed
  deriving DecidableEq, Repr

/-- The outcome STATUS.ERR records (R211). The codes 7 to 15 are never produced, so they have no
constructor. -/
inductive CmdError where
  | none
  | keySize
  | tweakSize
  | lengthViolation
  | notConstructed
  | alreadyConstructed
  | illegalCmd
  deriving DecidableEq, Repr

/-- How wide a host access is (R62, R63). -/
inductive AccessWidth where
  /-- A single transfer of `n` bytes. -/
  | bytes (n : Nat)
  /-- A burst of `n` transfers. -/
  | burst (n : Nat)
  deriving DecidableEq, Repr

/-- What a host access does (R99). -/
inductive AccessKind where
  | read
  | write (value : Word)
  deriving DecidableEq, Repr

/-- One host access at the bus target port (R63). `addr` is the host's address: the engine decodes
its bits 11..0 only (R60). -/
structure BusAccess where
  addr : Nat
  width : AccessWidth
  kind : AccessKind
  deriving DecidableEq, Repr

/-- What happens next at the engine's ports: the order in which the agents of R10 move. -/
inductive Event where
  /-- The host makes one access (R72). -/
  | access (a : BusAccess)
  /-- The engine takes its enabled step, if it has one (R182). -/
  | engine
  /-- RST is asserted, or power is lost (R231, R240). -/
  | reset
  deriving DecidableEq, Repr

/-- What the bus target port answered to an access (R63). -/
inductive BusResponse where
  /-- A write was accepted. -/
  | ok
  /-- A read was accepted and returned this word. -/
  | data (w : Word)
  /-- The access was refused (R63, R220). -/
  | busError
  deriving DecidableEq, Repr

/-- LATCH, the snapshot of the inputs taken at issue (R38). -/
structure Latch where
  /-- LATCH.cmd, the CMD value written. -/
  cmd : Word
  /-- LATCH.key[0..NW-1]. -/
  key : List Word
  /-- LATCH.tweak[0..1]. -/
  tweak : Vector Word 2
  /-- LATCH.data[0..NW-1]. -/
  data : List Word
  deriving DecidableEq, Repr

/-- The Round Engine's working registers (R39). -/
structure Datapath where
  /-- V[0..NW-1], the block state. -/
  v : List Word
  /-- D, the round counter. -/
  d : Nat
  deriving DecidableEq, Repr

/-- The state of one engine instance (R20), and the model's own three fields at the end. -/
structure State where
  /-- The build's variant: the constant that ID and BLOCKSIZE read (R3, R21, R22). -/
  variant : Variant
  /-- PENDING, a command is in flight; STATUS.BUSY is its view (R24, R40). -/
  pending : Bool
  /-- ST; STATUS.CONSTRUCTED is its view (R25, R36). -/
  st : ConstructState
  /-- STATUS.DONE (R26). -/
  done : Bool
  /-- STATUS.OVERRUN (R27). -/
  overrun : Bool
  /-- STATUS.ERR (R28). -/
  err : CmdError
  /-- STATUS.ERR_INFO (R29). -/
  errInfo : BitVec 16
  /-- KEY_IN[0..15] (R31). -/
  keyIn : Vector Word 16
  /-- TWEAK_IN[0..1] (R32). -/
  tweakIn : Vector Word 2
  /-- DATA_IN[0..15] (R33). -/
  dataIn : Vector Word 16
  /-- DATA_OUT[0..15] (R34). -/
  dataOut : Vector Word 16
  /-- KS, NS groups of NW words (R37). -/
  ks : List (List Word)
  /-- LATCH (R38). -/
  latch : Latch
  /-- V and D (R39). -/
  dp : Datapath
  /-- The model's own: how many free values have been taken. -/
  freeCount : Nat
  /-- The model's own: the events still to come, the first one next. -/
  inputs : List Event
  /-- The model's own: the bus port's answer to the last access. -/
  response : Option BusResponse
  deriving DecidableEq, Repr

/-- No event stops this machine: an error ends one command with a status and does not stop the
engine (R223), and a refused access is answered on the bus (R63). There is no fault to name. -/
inductive Fault where
  deriving DecidableEq, Repr

/-- Why a step has no meaning. -/
inductive Refusal where
  /-- Raised by an arm of `exec` for an instruction without a meaning. No arm of this model raises
  it. Safe: the machine stops where the hardware goes on. -/
  | notModelled (mnemonic : String)
  deriving DecidableEq, Repr

/-- The engine of a variant right after reset, with no event to come (R44). KS, LATCH, V and D have
no reset value in the spec: zero is a DESIGN CHOICE, see notes/assumptions/2. -/
def State.resetOf (v : Variant) : State where
  variant := v
  pending := false
  st := .uninit
  done := false
  overrun := false
  err := .none
  errInfo := 0#16
  keyIn := Vector.replicate 16 0#64
  tweakIn := Vector.replicate 2 0#64
  dataIn := Vector.replicate 16 0#64
  dataOut := Vector.replicate 16 0#64
  ks := List.replicate v.ns (List.replicate v.nw 0#64)
  latch := ⟨0#64, List.replicate v.nw 0#64, Vector.replicate 2 0#64, List.replicate v.nw 0#64⟩
  dp := ⟨List.replicate v.nw 0#64, 0⟩
  freeCount := 0
  inputs := []
  response := none

/-- The machine right after reset (R44), of the variant that Config names. -/
def State.reset : State := State.resetOf Config.variant

end Sys2Proof.Machine
end

