-- ==== Sys2Proof/Machine/Flags.lean ====
section
/-! DEFINITION. The STATUS register and its fields: the error codes, the info values and the word a
read returns (R23 to R29, R211). The engine has no other flags (R42). -/

namespace Sys2Proof.Machine

/-- The value of STATUS.ERR (R211). -/
def CmdError.code : CmdError → BitVec 4
  | .none => 0#4
  | .keySize => 1#4
  | .tweakSize => 2#4
  | .lengthViolation => 3#4
  | .notConstructed => 4#4
  | .alreadyConstructed => 5#4
  | .illegalCmd => 6#4

/-- The value of STATUS.ERR_INFO that goes with an outcome (R29, R211). -/
def CmdError.info (v : Variant) : CmdError → BitVec 16
  | .none => 0#16
  | .keySize => BitVec.ofNat 16 v.keyBytes
  | .tweakSize => BitVec.ofNat 16 v.tweakBytes
  | .lengthViolation => BitVec.ofNat 16 v.blockBytes
  | .notConstructed => 0#16
  | .alreadyConstructed => 0#16
  | .illegalCmd => 0#16

/-- STATUS.BUSY, which is PENDING (R24, R40). -/
def State.busy (s : State) : Bool := s.pending

/-- STATUS.CONSTRUCTED, which is ST (R25). -/
def State.isConstructed (s : State) : Bool := s.st == .constructed

/-- The STATUS word with its fields in their places, the reserved bits 0 (R23). -/
def packStatus (errInfo : BitVec 16) (err : BitVec 4) (overrun done constructed busy : Bool) : Word :=
  0#32 ++ errInfo ++ 0#4 ++ err ++ 0#4 ++ BitVec.ofBool overrun ++ BitVec.ofBool done ++
    BitVec.ofBool constructed ++ BitVec.ofBool busy

/-- What a read of STATUS returns (R23, R64). -/
def State.statusWord (s : State) : Word :=
  packStatus s.errInfo s.err.code s.overrun s.done s.isConstructed s.busy

/-- What a read of ID returns (R21). -/
def State.idWord (s : State) : Word :=
  0#24 ++ BitVec.ofNat 8 s.variant.ns ++ BitVec.ofNat 8 s.variant.nr ++
    BitVec.ofNat 8 s.variant.nw ++ BitVec.ofNat 16 s.variant.bits

/-- What a read of BLOCKSIZE returns (R22). -/
def State.blockSizeWord (s : State) : Word := BitVec.ofNat 64 s.variant.blockBytes

end Sys2Proof.Machine
end

