-- ==== Sys2Proof/Machine/Operands.lean ====
section
/-! DEFINITION. The operands of a command: its two length fields, checked against the variant's
fixed lengths, and the register words it takes, read from a register file at issue or from LATCH
at completion (R35, R38, R93, R94, R120, R121, R140). -/

namespace Sys2Proof.Machine

/-- A length field equals a byte count; the field is zero-extended and not scaled (R93). -/
def lenIs (len : BitVec 16) (n : Nat) : Bool := len.toNat == n

/-- CONSTRUCT's LEN_A is the key length (R94). -/
def keyLenOk (v : Variant) (lenA : BitVec 16) : Bool := lenIs lenA v.keyBytes

/-- CONSTRUCT's LEN_B is the tweak length (R94). -/
def tweakLenOk (v : Variant) (lenB : BitVec 16) : Bool := lenIs lenB v.tweakBytes

/-- ENCRYPT's and DECRYPT's two lengths are the block length, checked together (R94, R221). -/
def blockLensOk (v : Variant) (lenA lenB : BitVec 16) : Bool :=
  lenIs lenA v.blockBytes && lenIs lenB v.blockBytes

/-- The words 0..NW-1 of a 16-slot register file (R35, R38). -/
def usedWords (v : Variant) (f : Vector Word 16) : List Word := f.toList.take v.nw

/-- What a read of slot `j` of a 16-slot file gives: a reserved slot reads 0 (R35). -/
def readSlot (v : Variant) (f : Vector Word 16) (j : Fin 16) : Word :=
  if j.val < v.nw then f[j] else 0#64

/-- A host write of slot `j` of a 16-slot file: a reserved slot ignores it (R35). -/
def writeSlot (v : Variant) (f : Vector Word 16) (j : Fin 16) (w : Word) : Vector Word 16 :=
  if j.val < v.nw then f.set j w else f

/-- The file with its words 0..NW-1 replaced by a block, the reserved slots kept (R34, R35). -/
def writeBlock (v : Variant) (f : Vector Word 16) (block : List Word) : Vector Word 16 :=
  Vector.ofFn fun j : Fin 16 => if j.val < v.nw then block.getD j.val 0#64 else f[j]

/-- The key k[0..NW-1] of a CONSTRUCT (R120). -/
def State.keyWords (s : State) : List Word := s.latch.key

/-- The tweak t[0], t[1] of a CONSTRUCT (R121). -/
def State.tweakWords (s : State) : Vector Word 2 := s.latch.tweak

/-- The source block of an ENCRYPT or DECRYPT (R140). -/
def State.blockWords (s : State) : List Word := s.latch.data

end Sys2Proof.Machine
end

