-- ==== Sys2Proof/Machine/Ops.lean ====
section
/-! DEFINITION. The shared operations on the state: issuing a command, completing it, ending it with
an error (this hardware's one form of exception), the reset event, and the free values that stand
for what the spec leaves unspecified. -/

namespace Sys2Proof.Machine

/-- Issue of the command word `w` by an idle engine (R180): the inputs are copied into LATCH, BUSY is
set and DONE, ERR and ERR_INFO are cleared. -/
def State.issue (w : Word) (s : State) : State :=
  { s with
    latch := ⟨w, usedWords s.variant s.keyIn, s.tweakIn, usedWords s.variant s.dataIn⟩
    pending := true
    done := false
    err := .none
    errInfo := 0#16 }

/-- A host write of CMD: an issue, or an overrun while a command is in flight (R180, R181). -/
def State.commandRequest (w : Word) (s : State) : State :=
  if s.pending then { s with overrun := true } else s.issue w

/-- The end of a completion with the given outcome (R182): ERR and ERR_INFO are written, BUSY is
cleared, DONE is set. -/
def State.complete (e : CmdError) (s : State) : State :=
  { s with
    err := e
    errInfo := e.info s.variant
    pending := false
    done := true }

/-- `raise <Error>(info)`: the command in flight ends with the error and writes nothing but STATUS
(R15, R212). The engine has no trap entry and no return from one (R223): this is all that an
error does. -/
def State.raise (e : CmdError) (s : State) : State := s.complete e

/-- What the engine's completion step decodes: the command word in LATCH (R182). -/
def State.commandWord (s : State) : Word := s.latch.cmd

/-- The word `w` placed where the completion step finds it, with the engine to move next: an issue
of `w` with the inputs the registers hold, and the engine's turn before every other event. See
notes/assumptions/7. -/
def State.placeCommand (w : Word) (s : State) : State :=
  { s.issue w with inputs := .engine :: s.inputs }

/-- Free values for V[0..NW-1] and D (R39). That D is left within 0..NR-1 is a DESIGN CHOICE: see
notes/assumptions/14. -/
def freeDatapath (v : Variant) (n : Nat) : Datapath :=
  ⟨(List.range v.nw).map (Config.freeV n), Config.freeD n % v.nr⟩

/-- V and D after a command that succeeds: unspecified (R39). See notes/assumptions/4. -/
def State.releaseDatapath (s : State) : State :=
  { s with dp := freeDatapath s.variant s.freeCount, freeCount := s.freeCount + 1 }

/-- Free values for KS, NS groups of NW words. -/
def freeSchedule (v : Variant) (n : Nat) : List (List Word) :=
  (List.range v.ns).map fun g => (List.range v.nw).map (Config.freeKs n g)

/-- Free values for LATCH. -/
def freeLatch (v : Variant) (n : Nat) : Latch :=
  ⟨Config.freeLatchCmd n, (List.range v.nw).map (Config.freeLatchKey n),
    #v[Config.freeLatchTweak n 0, Config.freeLatchTweak n 1],
    (List.range v.nw).map (Config.freeLatchData n)⟩

/-- The reset event (R240, R241): every register takes its reset value of R44 and a command in
flight is abandoned. KS, LATCH, V and D, which R44 leaves unspecified, take free values. The events
still to come stay, and the port holds no answer. -/
def State.resetEvent (s : State) : State :=
  { State.resetOf s.variant with
    ks := freeSchedule s.variant s.freeCount
    latch := freeLatch s.variant s.freeCount
    dp := freeDatapath s.variant s.freeCount
    freeCount := s.freeCount + 1
    inputs := s.inputs }

end Sys2Proof.Machine
end

