-- ==== Sys2Proof/Machine/Bits.lean ====
section
/-! DEFINITION. Rotations and the byte-order primitives of the spec's notation (R13, R14, R66). -/

namespace Sys2Proof.Machine

/-- Circular left rotation by `r mod 64` bits (R13). -/
def rotl (x : Word) (r : Nat) : Word :=
  if r % 64 = 0 then x else (x <<< (r % 64)) ||| (x >>> (64 - r % 64))

/-- Circular right rotation (R13). -/
def rotr (x : Word) (r : Nat) : Word := rotl x ((64 - r % 64) % 64)

/-- LE64: the word whose least significant byte is the first byte (R14). -/
def le64 (b0 b1 b2 b3 b4 b5 b6 b7 : Byte) : Word := b7 ++ b6 ++ b5 ++ b4 ++ b3 ++ b2 ++ b1 ++ b0

/-- Byte lane `b` of a word, bits `8b+7 .. 8b` (R66). -/
def byteLane (w : Word) (b : Nat) : Byte := w.extractLsb' (8 * b) 8

/-- The eight bytes of a word, the least significant first (R14). -/
def wordBytes (w : Word) : List Byte := (List.range 8).map (byteLane w)

/-- LEBYTES: the bytes of the words in word order (R14). -/
def leBytes (ws : List Word) : List Byte := ws.flatMap wordBytes

/-- LE64(bytes[8j .. 8j+7]), word `j` of a byte sequence (R14, R67). A byte the sequence does not
have is taken as 0, a DESIGN CHOICE: see notes/assumptions/16. -/
def leWord (bs : List Byte) (j : Nat) : Word :=
  let b := fun i => bs.getD (8 * j + i) 0#8
  le64 (b 0) (b 1) (b 2) (b 3) (b 4) (b 5) (b 6) (b 7)

/-- LEWORDS: the first `n` words of a byte sequence (R14). -/
def leWords (bs : List Byte) (n : Nat) : List Word := (List.range n).map (leWord bs)

end Sys2Proof.Machine
end

