-- ==== Sys2Proof/Machine/RoundEngine.lean ====
section
/-! DEFINITION. The Round Engine: the rotation and permutation tables, MIX, PERMUTE, INJECT and their
inverses, and the whole-block functions over the working registers V and D (R140 to R160). -/

namespace Sys2Proof.Machine

/-- The rotation constants R4, R8 and R16; row `d mod 8`, column `j` (R142, R143, R144). -/
def rotTable : Variant → List (List Nat)
  | .v256 =>
    [[14, 16], [52, 57], [23, 40], [5, 37], [25, 33], [46, 12], [58, 22], [32, 32]]
  | .v512 =>
    [[46, 36, 19, 37], [33, 27, 14, 42], [17, 49, 36, 39], [44, 9, 54, 56],
     [39, 30, 34, 24], [13, 50, 10, 17], [25, 29, 39, 43], [8, 35, 56, 22]]
  | .v1024 =>
    [[24, 13, 8, 47, 8, 17, 22, 37], [38, 19, 10, 55, 49, 18, 23, 52],
     [33, 4, 51, 13, 34, 41, 59, 17], [5, 20, 48, 41, 47, 28, 16, 25],
     [41, 9, 37, 31, 12, 47, 44, 30], [16, 34, 56, 51, 4, 53, 42, 41],
     [31, 44, 47, 46, 19, 42, 44, 25], [9, 48, 35, 52, 23, 31, 37, 20]]

/-- The rotation constants of round `d`, one for each pair (R145). -/
def rotRow (v : Variant) (d : Nat) : List Nat := (rotTable v).getD (d % 8) []

/-- The word permutation PI_NW (R146). -/
def permTable : Variant → List Nat
  | .v256 => [0, 3, 2, 1]
  | .v512 => [2, 1, 4, 7, 6, 5, 0, 3]
  | .v1024 => [0, 9, 2, 13, 6, 11, 4, 15, 10, 7, 12, 3, 14, 5, 8, 1]

/-- The inverse permutation PIINV_NW (R147). -/
def permInvTable : Variant → List Nat
  | .v256 => [0, 3, 2, 1]
  | .v512 => [6, 1, 0, 7, 2, 5, 4, 3]
  | .v1024 => [0, 15, 2, 11, 6, 13, 4, 9, 14, 1, 8, 5, 10, 3, 12, 7]

/-- MIX (R148). -/
def mix (a b : Word) (r : Nat) : Word × Word :=
  let a' := a + b
  (a', rotl b r ^^^ a')

/-- UNMIX (R149). -/
def unmix (a' b' : Word) (r : Nat) : Word × Word :=
  let b := rotr (b' ^^^ a') r
  (a' - b, b)

/-- `f` on every adjacent pair of words, pair `j` with rotation `j` of the row (R145). -/
def mapPairs (f : Word → Word → Nat → Word × Word) : List Nat → List Word → List Word
  | r :: rs, a :: b :: ws => (f a b r).1 :: (f a b r).2 :: mapPairs f rs ws
  | _, _ => []

/-- The words of `f` in the order a table gives. -/
def reorder (table : List Nat) (f : List Word) : List Word := table.map fun p => f.getD p 0#64

/-- PERMUTE: V'[i] = f[PI_NW[i]] (R150). -/
def permute (v : Variant) (f : List Word) : List Word := reorder (permTable v) f

/-- UNPERMUTE: f[i] = V[PIINV_NW[i]] (R150). -/
def unpermute (v : Variant) (f : List Word) : List Word := reorder (permInvTable v) f

/-- Word `i` of subkey group `s` of KS. -/
def ksWord (ks : List (List Word)) (s i : Nat) : Word := (ks.getD s []).getD i 0#64

/-- INJECT: word-wise addition of subkey group `s` (R151). -/
def inject (ks : List (List Word)) (s : Nat) (x : List Word) : List Word :=
  x.mapIdx fun i w => w + ksWord ks s i

/-- EJECT: word-wise subtraction of subkey group `s` (R151). -/
def eject (ks : List (List Word)) (s : Nat) (x : List Word) : List Word :=
  x.mapIdx fun i w => w - ksWord ks s i

/-- ROUND, encryption round `d` without its injection (R152). -/
def roundStep (v : Variant) (d : Nat) (x : List Word) : List Word :=
  permute v (mapPairs mix (rotRow v d) x)

/-- UNROUND, the inverse of round `d` (R153). -/
def unroundStep (v : Variant) (d : Nat) (x : List Word) : List Word :=
  mapPairs unmix (rotRow v d) (unpermute v x)

/-- INJECT before a round `d` with `d mod 4 = 0` (R141, R154). -/
def injectBefore (ks : List (List Word)) (d : Nat) (x : List Word) : List Word :=
  if d % 4 = 0 then inject ks (d / 4) x else x

/-- EJECT after undoing a round `d` with `d mod 4 = 0` (R155). -/
def ejectAfter (ks : List (List Word)) (d : Nat) (x : List Word) : List Word :=
  if d % 4 = 0 then eject ks (d / 4) x else x

/-- One pass of R154's loop: round D with its injection, and D counts up (R39). -/
def Datapath.encRound (v : Variant) (ks : List (List Word)) (p : Datapath) : Datapath :=
  ⟨roundStep v p.d (injectBefore ks p.d p.v), p.d + 1⟩

/-- `n` passes of R154's loop. -/
def Datapath.encRounds (v : Variant) (ks : List (List Word)) : Nat → Datapath → Datapath
  | 0, p => p
  | n + 1, p => Datapath.encRounds v ks n (p.encRound v ks)

/-- One pass of R155's loop: round D undone with its ejection, and D counts down (R39). -/
def Datapath.decRound (v : Variant) (ks : List (List Word)) (p : Datapath) : Datapath :=
  ⟨ejectAfter ks p.d (unroundStep v p.d p.v), p.d - 1⟩

/-- `n` passes of R155's loop. -/
def Datapath.decRounds (v : Variant) (ks : List (List Word)) : Nat → Datapath → Datapath
  | 0, p => p
  | n + 1, p => Datapath.decRounds v ks n (p.decRound v ks)

/-- R154 on the working registers: NR rounds, then the final injection of group NR/4. -/
def Datapath.encryptRun (v : Variant) (ks : List (List Word)) (p : Datapath) : Datapath :=
  let q := p.encRounds v ks v.nr
  ⟨inject ks (v.nr / 4) q.v, q.d⟩

/-- R155 on the working registers: the ejection of group NR/4, then the NR rounds undone. -/
def Datapath.decryptRun (v : Variant) (ks : List (List Word)) (p : Datapath) : Datapath :=
  Datapath.decRounds v ks v.nr ⟨eject ks (v.nr / 4) p.v, p.d⟩

/-- V and D loaded for an encryption: the plaintext, and round 0 first (R39, R154). -/
def Datapath.encryptLoad (_ : Variant) (block : List Word) : Datapath := ⟨block, 0⟩

/-- V and D loaded for a decryption: the ciphertext, and round NR-1 first (R39, R155). -/
def Datapath.decryptLoad (v : Variant) (block : List Word) : Datapath := ⟨block, v.nr - 1⟩

/-- ENCRYPT_BLOCK (R154). -/
def encryptBlock (v : Variant) (ks : List (List Word)) (p : List Word) : List Word :=
  ((Datapath.encryptLoad v p).encryptRun v ks).v

/-- DECRYPT_BLOCK (R155). -/
def decryptBlock (v : Variant) (ks : List (List Word)) (c : List Word) : List Word :=
  ((Datapath.decryptLoad v c).decryptRun v ks).v

end Sys2Proof.Machine
end

