-- ==== Sys2Proof/Machine/Facade.lean ====
section
/-! DEFINITION. The meanings of the engine's commands: what the completion of each one does
(R182 to R187). Each is R183's EXECUTE of one command together with R182's write of STATUS. -/

namespace Sys2Proof.Machine

/-- KS written by a successful CONSTRUCT, and ST with it, in one step (R127, R184). -/
def State.installSchedule (s : State) : State :=
  { s with ks := schedule s.variant s.keyWords s.tweakWords, st := .constructed }

/-- DO_CONSTRUCT with its completion (R184). V and D, which R39 leaves unspecified between commands
and R184 does not say are kept, are left free. -/
def doConstruct (lenA lenB : BitVec 16) (s : State) : State :=
  if s.st = .constructed then s.raise .alreadyConstructed
  else if keyLenOk s.variant lenA = false then s.raise .keySize
  else if tweakLenOk s.variant lenB = false then s.raise .tweakSize
  else s.installSchedule.releaseDatapath.complete .none

/-- V and D loaded from LATCH (R140). -/
def State.loadDatapath (load : Variant → List Word → Datapath) (s : State) : State :=
  { s with dp := load s.variant s.blockWords }

/-- The Round Engine run on V and D under KS (R154, R155). -/
def State.runDatapath (run : Variant → List (List Word) → Datapath → Datapath) (s : State) : State :=
  { s with dp := run s.variant s.ks s.dp }

/-- DATA_OUT written with the NW words of V, all at once (R34, R185). -/
def State.storeResult (s : State) : State :=
  { s with dataOut := writeBlock s.variant s.dataOut s.dp.v }

/-- DO_CRYPT with its completion (R185); `load` and `run` are those of the block function. -/
def doCrypt (load : Variant → List Word → Datapath)
    (run : Variant → List (List Word) → Datapath → Datapath) (lenA lenB : BitVec 16) (s : State) :
    State :=
  if s.st = .uninit then s.raise .notConstructed
  else if blockLensOk s.variant lenA lenB = false then s.raise .lengthViolation
  else (((s.loadDatapath load).runDatapath run).storeResult).releaseDatapath.complete .none

/-- CONSTRUCT (R184). -/
def execConstruct (lenA lenB : BitVec 16) (s : State) : Host.Outcome State Fault Refusal :=
  .next (doConstruct lenA lenB s)

/-- ENCRYPT (R185). -/
def execEncrypt (lenA lenB : BitVec 16) (s : State) : Host.Outcome State Fault Refusal :=
  .next (doCrypt Datapath.encryptLoad (fun v ks p => p.encryptRun v ks) lenA lenB s)

/-- DECRYPT (R186). -/
def execDecrypt (lenA lenB : BitVec 16) (s : State) : Host.Outcome State Fault Refusal :=
  .next (doCrypt Datapath.decryptLoad (fun v ks p => p.decryptRun v ks) lenA lenB s)

/-- The completion of a word that decodes to ILLEGAL (R187, R218). -/
def completeIllegal (s : State) : State := s.raise .illegalCmd

end Sys2Proof.Machine
end

