-- ==== Sys2Proof/Machine/Dispatch.lean ====
section
/-! DEFINITION. The meaning of every command, one arm per constructor (R183). -/

namespace Sys2Proof.Machine

def exec (i : Instr) (s : State) : Host.Outcome State Fault Refusal :=
  match i with
  | .construct lenA lenB => Sys2Proof.Machine.execConstruct lenA lenB s
  | .encrypt lenA lenB => Sys2Proof.Machine.execEncrypt lenA lenB s
  | .decrypt lenA lenB => Sys2Proof.Machine.execDecrypt lenA lenB s

end Sys2Proof.Machine
end

