-- ==== Sys2Proof/Machine/Window.lean ====
section
/-! DEFINITION. The register window: its map, the reads and writes of it, and what the bus target
port does with an access (R60 to R73). -/

namespace Sys2Proof.Machine

/-- A register of the window, or a reserved offset (R61). -/
inductive Reg where
  | id
  | blockSize
  | status
  | cmd
  | keyIn (j : Fin 16)
  | tweakIn (j : Fin 2)
  | dataIn (j : Fin 16)
  | dataOut (j : Fin 16)
  | reserved
  deriving DecidableEq, Repr

/-- The window map: the register at an 8-byte-aligned offset (R61). -/
def regAt (off : Nat) : Reg :=
  if off = 0x000 then .id
  else if off = 0x008 then .blockSize
  else if off = 0x010 then .status
  else if off = 0x018 then .cmd
  else if h : 0x100 ≤ off ∧ off < 0x180 then .keyIn ⟨(off - 0x100) / 8, by omega⟩
  else if h : 0x180 ≤ off ∧ off < 0x190 then .tweakIn ⟨(off - 0x180) / 8, by omega⟩
  else if h : 0x200 ≤ off ∧ off < 0x280 then .dataIn ⟨(off - 0x200) / 8, by omega⟩
  else if h : 0x280 ≤ off ∧ off < 0x300 then .dataOut ⟨(off - 0x280) / 8, by omega⟩
  else .reserved

/-- The offset of a register in the window (R61); a reserved offset has no register, and 0x020
stands for them all. -/
def Reg.offset : Reg → Nat
  | .id => 0x000
  | .blockSize => 0x008
  | .status => 0x010
  | .cmd => 0x018
  | .keyIn j => 0x100 + 8 * j.val
  | .tweakIn j => 0x180 + 8 * j.val
  | .dataIn j => 0x200 + 8 * j.val
  | .dataOut j => 0x280 + 8 * j.val
  | .reserved => 0x020

/-- What a read of a register returns (R61, R64). -/
def State.readReg (s : State) : Reg → Word
  | .id => s.idWord
  | .blockSize => s.blockSizeWord
  | .status => s.statusWord
  | .cmd => 0#64
  | .keyIn _ => 0#64
  | .tweakIn _ => 0#64
  | .dataIn j => readSlot s.variant s.dataIn j
  | .dataOut j => readSlot s.variant s.dataOut j
  | .reserved => 0#64

/-- A host write of STATUS: bit 3 clears OVERRUN, the other bits are ignored (R27, R65). -/
def State.writeStatus (w : Word) (s : State) : State :=
  if w.getLsbD 3 then { s with overrun := false } else s

/-- A host write of KEY_IN[j] (R31, R35). -/
def State.writeKeyIn (j : Fin 16) (w : Word) (s : State) : State :=
  { s with keyIn := writeSlot s.variant s.keyIn j w }

/-- A host write of TWEAK_IN[j] (R32). -/
def State.writeTweakIn (j : Fin 2) (w : Word) (s : State) : State :=
  { s with tweakIn := s.tweakIn.set j w }

/-- A host write of DATA_IN[j] (R33, R35). -/
def State.writeDataIn (j : Fin 16) (w : Word) (s : State) : State :=
  { s with dataIn := writeSlot s.variant s.dataIn j w }

/-- What a write of a register does (R61, R65). -/
def State.writeReg (s : State) (w : Word) : Reg → State
  | .id => s
  | .blockSize => s
  | .status => s.writeStatus w
  | .cmd => s.commandRequest w
  | .keyIn j => s.writeKeyIn j w
  | .tweakIn j => s.writeTweakIn j w
  | .dataIn j => s.writeDataIn j w
  | .dataOut _ => s
  | .reserved => s

/-- MemRead(offset, 8) (R64). -/
def State.memRead (s : State) (off : Nat) : Word := s.readReg (regAt off)

/-- MemWrite(offset, 8, v) (R65). -/
def State.memWrite (s : State) (off : Nat) (w : Word) : State := s.writeReg w (regAt off)

/-- The word a register of the window holds (R21 to R35): what a read returns, but for KEY_IN and
TWEAK_IN, which hold a word and read as 0 (R31, R32). A reserved slot holds none and gives 0. -/
def State.regWord (s : State) : Reg → Word
  | .id => s.readReg .id
  | .blockSize => s.readReg .blockSize
  | .status => s.readReg .status
  | .cmd => s.readReg .cmd
  | .keyIn j => readSlot s.variant s.keyIn j
  | .tweakIn j => s.tweakIn[j]
  | .dataIn j => s.readReg (.dataIn j)
  | .dataOut j => s.readReg (.dataOut j)
  | .reserved => s.readReg .reserved

/-- The byte at a window address: a byte lane of the register at its offset (R66). It is the byte of
the register, so the key and tweak bytes stand at 0x100 and 0x180 as R67 says, though a read there
returns 0 (R64). -/
def State.windowByte (s : State) (a : Nat) : Byte := byteLane (s.regWord (regAt (a / 8 * 8))) (a % 8)

/-- The window offset of a host address: its bits 11..0 (R60). -/
def windowOffset (addr : Nat) : Nat := addr % 4096

/-- The window accepts an access: eight bytes wide, at a multiple of 8 (R62, R63). -/
def accepts (a : BusAccess) : Bool := a.width == .bytes 8 && windowOffset a.addr % 8 == 0

/-- One host access at the bus target port (R63). -/
def State.busAccess (a : BusAccess) (s : State) : State :=
  if accepts a then
    match a.kind with
    | .read => { s with response := some (.data (s.memRead (windowOffset a.addr))) }
    | .write w => { s.memWrite (windowOffset a.addr) w with response := some .ok }
  else { s with response := some .busError }

end Sys2Proof.Machine
end

