-- ==== Sys2Proof/Machine/Engine.lean ====
section
/-! DEFINITION. The engine's own step, and what one event does (R72, R182, R240). -/

namespace Sys2Proof.Machine

/-- The engine's turn (R182): its one enabled step while PENDING is the completion of the command in
LATCH; with nothing pending it has none and the state stays as it is (R242). -/
def engineStep (s : State) : Host.Outcome State Fault Refusal :=
  if s.pending then
    match decode s.commandWord with
    | .ok i => exec i s
    | .error _ => .next (completeIllegal s)
  else .next s

/-- What one event does (R72, R182, R240). -/
def handleEvent (e : Event) (s : State) : Host.Outcome State Fault Refusal :=
  match e with
  | .access a => .next (s.busAccess a)
  | .engine => engineStep s
  | .reset => .next s.resetEvent

end Sys2Proof.Machine
end

