-- ==== Sys2Proof/Machine/Step.lean ====
section
/-! DEFINITION. One step of the machine: the next event, or the engine's turn when the host has no
access left to make (R72, R257). -/

namespace Sys2Proof.Machine

/-- One step. With no event to come the engine moves, so a command in flight completes (R257). -/
def step (s : State) : Host.Outcome State Fault Refusal :=
  match s.inputs with
  | [] => engineStep s
  | e :: rest => handleEvent e { s with inputs := rest }

/-- The command word of the low `nbits` bits of `w`, placed where the next step finds it. -/
def State.withFetchWord (s : State) (nbits w : Nat) : State :=
  s.placeCommand (BitVec.ofNat 64 (w % 2 ^ nbits))

end Sys2Proof.Machine
end

