-- ==== Sys2Proof/Machine/HostProgram.lean ====
section
/-! DEFINITION. The host-program syntax: bus accesses, the pseudo-instructions with their expansions
(R99, R100), what a host running a program does beside the engine, POLL's loop included, and the
byte-level interface mapped onto the registers (R67). -/

namespace Sys2Proof.Machine

/-- `WR <off>, <v>` at a register of the window (R99). -/
def wr (r : Reg) (w : Word) : Event := .access ⟨Config.base + r.offset, .bytes 8, .write w⟩

/-- `RD <off>` at a register of the window (R99). -/
def rd (r : Reg) : Event := .access ⟨Config.base + r.offset, .bytes 8, .read⟩

/-- A pseudo-instruction of R100. -/
inductive HostOp where
  | construct (la lb : BitVec 16)
  | encrypt (la lb : BitVec 16)
  | decrypt (la lb : BitVec 16)
  | ldKey (k : List Word)
  | ldTweak (t0 t1 : Word)
  | ldData (ws : List Word)
  | rdData
  | poll
  | clrOvr
  deriving DecidableEq, Repr

/-- POLL's loop ends on this value `s` of STATUS, BUSY = 0 and DONE = 1; otherwise, with
`s[0] = 1 or s[2] = 0`, it goes back to its read (R100). -/
def pollEnds (status : Word) : Bool := !status.getLsbD 0 && status.getLsbD 2

/-- The writes of a list of words into the slots of a file, in ascending order (R100). R100 has
LDKEY and LDDATA with exactly NW words; with another number the model writes NW words all the same,
0 for a missing word and none for an extra one, a DESIGN CHOICE: see notes/assumptions/19. -/
def wrSlots (slot : Fin 16 → Reg) (v : Variant) (ws : List Word) : List Event :=
  ((List.finRange 16).take v.nw).map fun j => wr (slot j) (ws.getD j.val 0#64)

/-- The accesses a pseudo-instruction stands for, in order (R100). POLL's is the read in its loop,
which `HostOp.lines` marks as repeated. -/
def HostOp.expand (v : Variant) : HostOp → List Event
  | .construct la lb => [wr .cmd (encode (.construct la lb))]
  | .encrypt la lb => [wr .cmd (encode (.encrypt la lb))]
  | .decrypt la lb => [wr .cmd (encode (.decrypt la lb))]
  | .ldKey k => wrSlots .keyIn v k
  | .ldTweak t0 t1 => [wr (.tweakIn 0) t0, wr (.tweakIn 1) t1]
  | .ldData ws => wrSlots .dataIn v ws
  | .rdData => ((List.finRange 16).take v.nw).map fun j => rd (.dataOut j)
  | .poll => [rd .status]
  | .clrOvr => [wr .status 0x8#64]

/-- POLL's read is repeated until its test holds; every other access is made once (R100). -/
def HostOp.loops : HostOp → Bool
  | .poll => true
  | .construct _ _ => false
  | .encrypt _ _ => false
  | .decrypt _ _ => false
  | .ldKey _ => false
  | .ldTweak _ _ => false
  | .ldData _ => false
  | .rdData => false
  | .clrOvr => false

/-- A line of a host program: an access made once, or one repeated until POLL's test holds of the
word it reads (R99, R100). -/
structure HostLine where
  access : Event
  loops : Bool
  deriving DecidableEq, Repr

/-- The expansion of a pseudo-instruction as lines (R100). -/
def HostOp.lines (v : Variant) (op : HostOp) : List HostLine :=
  (op.expand v).map fun e => ⟨e, op.loops⟩

/-- A host running a program beside the engine: the machine, and the lines still to run, the first
one next (R10, R99). -/
structure HostRun where
  machine : State
  lines : List HostLine
  deriving DecidableEq, Repr

/-- Which agent moves next while a host program runs (R10, R72, R240). Their order is a free choice
of the run, as that of the events is: see notes/assumptions/15. -/
inductive Turn where
  | host
  | engine
  | reset
  deriving DecidableEq, Repr

/-- POLL's test on the port's answer: it holds of the word a read returned, if it ends the loop. That
it holds of no other answer, a bus error among them, is a DESIGN CHOICE: see notes/assumptions/20. -/
def State.answerEndsPoll (s : State) : Bool :=
  match s.response with
  | some (.data w) => pollEnds w
  | some .ok => false
  | some .busError => false
  | none => false

/-- The lines left after the first of `l :: rest` was run with the port's answer in `t`: a repeated
line stays until POLL's test holds (R100). What a host does on a bus error is the platform's (R220,
K-15): that it then goes on to its next line, or repeats a looping one, is a DESIGN CHOICE, see
notes/assumptions/20. -/
def HostLine.next (l : HostLine) (rest : List HostLine) (t : State) : List HostLine :=
  if l.loops && !t.answerEndsPoll then l :: rest else rest

/-- The run after an outcome of the machine, with the lines then left. -/
def HostRun.goOn (lines : State → List HostLine) :
    Host.Outcome State Fault Refusal → Host.Outcome HostRun Fault Refusal
  | .next t => .next ⟨t, lines t⟩
  | .fault f => .fault f
  | .refused f => .refused f

/-- One turn. The host makes the access of its next line, and goes back to it while POLL's test does
not hold; with no line left it makes none. The engine's turn and a reset leave the host where it is
(R72, R100, R182, R240). -/
def HostRun.turn (e : Turn) (r : HostRun) : Host.Outcome HostRun Fault Refusal :=
  match e with
  | .host =>
    match r.lines with
    | [] => .next r
    | l :: rest => HostRun.goOn (l.next rest) (handleEvent l.access r.machine)
  | .engine => HostRun.goOn (fun _ => r.lines) (engineStep r.machine)
  | .reset => HostRun.goOn (fun _ => r.lines) (handleEvent .reset r.machine)

/-- The turns of a list, one after the other. -/
def HostRun.run : List Turn → HostRun → Host.Outcome HostRun Fault Refusal
  | [], r => .next r
  | e :: es, r =>
    match r.turn e with
    | .next t => HostRun.run es t
    | .fault f => .fault f
    | .refused f => .refused f

/-- A key given as bytes written to KEY_IN: KEY_IN[j] = LE64(key[8j .. 8j+7]) (R67). -/
def writeKeyBytes (v : Variant) (key : List Byte) : List Event :=
  (HostOp.ldKey (leWords key v.nw)).expand v

/-- A tweak given as 16 bytes written to TWEAK_IN (R67). -/
def writeTweakBytes (v : Variant) (tw : List Byte) : List Event :=
  (HostOp.ldTweak (leWord tw 0) (leWord tw 1)).expand v

/-- A source block given as bytes written to DATA_IN: DATA_IN[j] = LE64(src[8j .. 8j+7]) (R67). -/
def writeSourceBytes (v : Variant) (src : List Byte) : List Event :=
  (HostOp.ldData (leWords src v.nw)).expand v

/-- The result bytes, dst = LEBYTES(DATA_OUT[0 .. NW-1]) (R67). -/
def State.resultBytes (s : State) : List Byte := leBytes (usedWords s.variant s.dataOut)

end Sys2Proof.Machine
end

