-- ==== Sys2Proof/Machine/Timing.lean ====
section
/-! DEFINITION. The latency of a command (R254, R256). No step counts cycles: the model keeps no time
(R256), and this file only says which of the four parameters a command takes. -/

namespace Sys2Proof.Machine

/-- The error the completion of the command in LATCH would report now (R221). -/
def State.pendingOutcome (s : State) : CmdError :=
  match engineStep { s with pending := true } with
  | .next t => t.err
  | .fault _ => .none
  | .refused _ => .none

/-- The parameter for a command that succeeds (R256). -/
def successLatency (v : Variant) : Instr → Nat
  | .construct _ _ => Config.latConstruct v
  | .encrypt _ _ => Config.latEncrypt v
  | .decrypt _ _ => Config.latDecrypt v

/-- Cycles from issue to completion of the command in LATCH (R256). -/
def State.latency (s : State) : Nat :=
  match s.pendingOutcome, decode s.commandWord with
  | .none, .ok i => successLatency s.variant i
  | _, _ => Config.latReject s.variant

end Sys2Proof.Machine
end

