-- ==== Sys2Proof/WellFormed.lean ====
section
/-! DEFINITION. Which commands are well formed for a variant: those whose two length fields are the
lengths the variant requires, the only ones that can succeed (R94, R98). Every other command is
still decoded, issued and completed, with an error. -/

namespace Sys2Proof

/-- The value LEN_A must have for the variant (R94). -/
def Instr.wantA (v : Variant) : Instr → Nat
  | .construct _ _ => v.keyBytes
  | .encrypt _ _ => v.blockBytes
  | .decrypt _ _ => v.blockBytes

/-- The value LEN_B must have for the variant (R94). -/
def Instr.wantB (v : Variant) : Instr → Nat
  | .construct _ _ => v.tweakBytes
  | .encrypt _ _ => v.blockBytes
  | .decrypt _ _ => v.blockBytes

/-- A command is well formed for a variant when both its lengths are the required ones (R98). -/
def Instr.wf (v : Variant) (i : Instr) : Bool :=
  i.lenA.toNat == i.wantA v && i.lenB.toNat == i.wantB v

end Sys2Proof
end

