-- ==== Sys2Proof/Safety.lean ====
section
/-! DEFINITION. What a good state is, and when two states look the same to the host: the terms in
which the statements about every step are made. -/

namespace Sys2Proof.Machine

/-- The facts that hold of every state a run from reset reaches. -/
structure State.Wf (s : State) : Prop where
  /-- Reserved slots of KEY_IN are never written (R35). -/
  keyReserved : ∀ j : Fin 16, s.variant.nw ≤ j.val → s.keyIn[j] = 0#64
  /-- Reserved slots of DATA_IN are never written (R35). -/
  dataInReserved : ∀ j : Fin 16, s.variant.nw ≤ j.val → s.dataIn[j] = 0#64
  /-- Reserved slots of DATA_OUT are never written (R35). -/
  dataOutReserved : ∀ j : Fin 16, s.variant.nw ≤ j.val → s.dataOut[j] = 0#64
  /-- KS has NS groups (R37). -/
  ksGroups : s.ks.length = s.variant.ns
  /-- Each group of KS has NW words (R37). -/
  ksWords : ∀ g ∈ s.ks, g.length = s.variant.nw
  /-- LATCH.key has NW words (R38). -/
  latchKey : s.latch.key.length = s.variant.nw
  /-- LATCH.data has NW words (R38). -/
  latchData : s.latch.data.length = s.variant.nw
  /-- V has NW words (R39). -/
  blockState : s.dp.v.length = s.variant.nw
  /-- D is a round number, 0..NR-1. R39 leaves D unspecified between commands, so that its range
  holds there is the model's choice: see notes/assumptions/14. -/
  roundRange : s.dp.d < s.variant.nr
  /-- BUSY and DONE never hold together (R24). -/
  notBusyAndDone : ¬(s.busy = true ∧ s.done = true)
  /-- ERR is 0 while a command is in flight (R28). -/
  busyNoError : s.busy = true → s.err = .none
  /-- ERR is 0 until a command has completed (R26, R28). -/
  idleNoError : s.done = false → s.err = .none
  /-- ERR_INFO is the value that goes with ERR (R29). -/
  infoMatches : s.errInfo = s.err.info s.variant
  /-- These errors leave, and are only reported in, UNINIT (R213, R214, R216). -/
  uninitErrors : s.err = .keySize ∨ s.err = .tweakSize ∨ s.err = .notConstructed → s.st = .uninit
  /-- These errors are only reported in CONSTRUCTED (R215, R217). -/
  constructedErrors : s.err = .alreadyConstructed ∨ s.err = .lengthViolation → s.st = .constructed

/-- A constructed engine's KS is the schedule of some key of NW words and some tweak (R127, R128). -/
def State.HoldsSchedule (s : State) : Prop :=
  s.st = .constructed →
    ∃ (k : List Word) (t : Vector Word 2), k.length = s.variant.nw ∧ s.ks = schedule s.variant k t

/-- The next step is the engine's turn: its turn comes first among the events, or none is left. -/
def State.engineMoves (s : State) : Prop := s.inputs = [] ∨ s.inputs.head? = some .engine

/-- Two states agree on all that the spec specifies: they may differ in KS while ST is UNINIT, in
LATCH while no command is in flight, and in V, D and the counter of free values (K-8, K-9, K-10). -/
structure SameSpecified (s t : State) : Prop where
  variant : s.variant = t.variant
  pending : s.pending = t.pending
  st : s.st = t.st
  done : s.done = t.done
  overrun : s.overrun = t.overrun
  err : s.err = t.err
  errInfo : s.errInfo = t.errInfo
  keyIn : s.keyIn = t.keyIn
  tweakIn : s.tweakIn = t.tweakIn
  dataIn : s.dataIn = t.dataIn
  dataOut : s.dataOut = t.dataOut
  inputs : s.inputs = t.inputs
  response : s.response = t.response
  latch : s.pending = true → s.latch = t.latch
  ks : s.st = .constructed → s.ks = t.ks

/-- Two states agree on everything but the key and tweak registers and the internal storage (R31,
R32, R37, R38, R39). -/
structure SameButSecrets (s t : State) : Prop where
  variant : s.variant = t.variant
  pending : s.pending = t.pending
  st : s.st = t.st
  done : s.done = t.done
  overrun : s.overrun = t.overrun
  err : s.err = t.err
  errInfo : s.errInfo = t.errInfo
  dataIn : s.dataIn = t.dataIn
  dataOut : s.dataOut = t.dataOut

end Sys2Proof.Machine
end

