-- ==== Sys2Proof/Certificates/Slice0/Obligations.lean ====
section
/-! DEFINITION. The statements about the engine, each a proposition about every state, word or block.
Where a statement says `s.engineMoves`, the next step is the engine's turn. The list `inputs` of
events still to come and the port's answer `response` are the model's own fields, its choice and no
rule's (logs 6 and 8), as are the counter `freeCount` and the free values V and D are left with
(logs 4 and 12). -/

open Sys2Proof Sys2Proof.Machine

/-! ### Reset, identity and STATUS -/

/-- R44. After reset every visible register has the value of the table, in each variant. KS, LATCH, V
and D are unspecified there and nothing is said of them. -/
def Obligations.ResetClearsEveryVisibleRegister : Prop :=
  ∀ v : Variant,
    (State.resetOf v).variant = v ∧
    (State.resetOf v).memRead 0x000 =
      (match v with
        | .v256 => 0x0000001348040100#64
        | .v512 => 0x0000001348080200#64
        | .v1024 => 0x0000001550100400#64) ∧
    (State.resetOf v).memRead 0x008 =
      (match v with
        | .v256 => 32#64
        | .v512 => 64#64
        | .v1024 => 128#64) ∧
    (State.resetOf v).busy = false ∧ (State.resetOf v).st = .uninit ∧
    (State.resetOf v).done = false ∧ (State.resetOf v).overrun = false ∧
    (State.resetOf v).err.code = 0#4 ∧ (State.resetOf v).errInfo = 0#16 ∧
    (State.resetOf v).pending = false ∧ (State.resetOf v).memRead 0x018 = 0#64 ∧
    (∀ j : Fin 16, (State.resetOf v).keyIn[j] = 0#64 ∧ (State.resetOf v).dataIn[j] = 0#64 ∧
      (State.resetOf v).dataOut[j] = 0#64) ∧
    ∀ j : Fin 2, (State.resetOf v).tweakIn[j] = 0#64

/-- R240, R241. A reset event clears every visible register whatever the engine was doing, and the
engine's next turn does nothing: the command that was in flight never completes. That the port's
answer is dropped and that the events still to come stay is the model's choice (logs 6 and 8). -/
def Obligations.ResetEventAbandonsTheCommand : Prop :=
  ∀ (s : State) (rest : List Event), s.inputs = .reset :: rest →
    ∃ t, step s = .next t ∧ t.variant = s.variant ∧ t.statusWord = 0#64 ∧ t.st = .uninit ∧
      t.pending = false ∧ (∀ j : Fin 16, t.keyIn[j] = 0#64 ∧ t.dataIn[j] = 0#64 ∧
        t.dataOut[j] = 0#64) ∧
      (∀ j : Fin 2, t.tweakIn[j] = 0#64) ∧ engineStep t = .next t ∧
      t.response = none ∧ t.inputs = rest

/-- R21, R22, R188, R189. In every state a read of ID or BLOCKSIZE answers the variant's constant and
changes nothing but the port's answer, and a write to either changes nothing but that. -/
def Obligations.IdAndBlockSizeAreConstants : Prop :=
  ∀ (s : State) (addr : Nat) (rest : List Event),
    (addr % 4096 = 0x000 →
      (s.inputs = .access ⟨addr, .bytes 8, .read⟩ :: rest →
        step s = .next { s with inputs := rest, response := some (.data
          (match s.variant with
            | .v256 => 0x0000001348040100#64
            | .v512 => 0x0000001348080200#64
            | .v1024 => 0x0000001550100400#64)) }) ∧
      ∀ w, s.inputs = .access ⟨addr, .bytes 8, .write w⟩ :: rest →
        step s = .next { s with inputs := rest, response := some .ok }) ∧
    (addr % 4096 = 0x008 →
      (s.inputs = .access ⟨addr, .bytes 8, .read⟩ :: rest →
        step s = .next { s with inputs := rest, response := some (.data
          (match s.variant with
            | .v256 => 32#64
            | .v512 => 64#64
            | .v1024 => 128#64)) }) ∧
      ∀ w, s.inputs = .access ⟨addr, .bytes 8, .write w⟩ :: rest →
        step s = .next { s with inputs := rest, response := some .ok })

/-- R23. Each field of STATUS stands at its bits, the reserved bits read 0, and a write changes
OVERRUN only, by its bit 3. -/
def Obligations.StatusFieldsStandInTheirBits : Prop :=
  ∀ s : State,
    (s.memRead 0x010).getLsbD 0 = s.pending ∧
    (s.memRead 0x010).getLsbD 1 = decide (s.st = .constructed) ∧
    (s.memRead 0x010).getLsbD 2 = s.done ∧
    (s.memRead 0x010).getLsbD 3 = s.overrun ∧
    (s.memRead 0x010).extractLsb' 4 4 = 0#4 ∧
    (s.memRead 0x010).extractLsb' 8 4 = s.err.code ∧
    (s.memRead 0x010).extractLsb' 12 4 = 0#4 ∧
    (s.memRead 0x010).extractLsb' 16 16 = s.errInfo ∧
    (s.memRead 0x010).extractLsb' 32 32 = 0#32 ∧
    (∀ w : Word, s.memWrite 0x010 w = { s with overrun := s.overrun && !w.getLsbD 3 }) ∧
    ∀ v, (State.resetOf v).memRead 0x010 = 0#64

/-- R27. After a step OVERRUN is 1 exactly when a CMD write arrived while BUSY = 1, or it was 1 before
and the event was neither an accepted write of STATUS with bit 3 set nor a reset. -/
def Obligations.OverrunIsStickyUntilClearedOrReset : Prop :=
  ∀ s t : State, step s = .next t →
    (t.overrun = true ↔
      (s.pending = true ∧ ∃ addr w,
        s.inputs.head? = some (.access ⟨addr, .bytes 8, .write w⟩) ∧ addr % 4096 = 0x018) ∨
      (s.overrun = true ∧ s.inputs.head? ≠ some .reset ∧ ∀ addr w,
        s.inputs.head? = some (.access ⟨addr, .bytes 8, .write w⟩) → addr % 4096 = 0x010 →
          w.getLsbD 3 = false))

/-! ### The command word -/

/-- R91, R96. Decoding and encoding agree: a word decodes to a command exactly when it is that
command's word, for every length field. -/
def Obligations.DecodeInvertsEncode : Prop :=
  ∀ (w : Word) (i : Instr), decode w = .ok i ↔ encode i = w

/-- R96. A word selects each command by the table's mask, with LEN_A and LEN_B taken from their bits,
and every other word is ILLEGAL. -/
def Obligations.DecodeSelectsByTheTableMask : Prop :=
  ∀ w : Word,
    (decode w = .ok (.construct (w.extractLsb' 8 16) (w.extractLsb' 24 16)) ↔
      w &&& 0xFFFFFF00000000FF#64 = 0x1#64) ∧
    (decode w = .ok (.encrypt (w.extractLsb' 8 16) (w.extractLsb' 24 16)) ↔
      w &&& 0xFFFFFF00000000FF#64 = 0x2#64) ∧
    (decode w = .ok (.decrypt (w.extractLsb' 8 16) (w.extractLsb' 24 16)) ↔
      w &&& 0xFFFFFF00000000FF#64 = 0x3#64) ∧
    ((∃ r, decode w = .error r) ↔
      w.extractLsb' 4 4 ≠ 0#4 ∨ w.extractLsb' 40 24 ≠ 0#24 ∨ w.extractLsb' 0 4 = 0#4 ∨
        4 ≤ (w.extractLsb' 0 4).toNat)

/-- R98. The nine words of the table decode to the well-formed commands they stand for. -/
def Obligations.WellFormedWordsDecode : Prop :=
  decode 0x0000000010002001#64 = .ok (.construct 32#16 16#16) ∧
  decode 0x0000000020002002#64 = .ok (.encrypt 32#16 32#16) ∧
  decode 0x0000000020002003#64 = .ok (.decrypt 32#16 32#16) ∧
  decode 0x0000000010004001#64 = .ok (.construct 64#16 16#16) ∧
  decode 0x0000000040004002#64 = .ok (.encrypt 64#16 64#16) ∧
  decode 0x0000000040004003#64 = .ok (.decrypt 64#16 64#16) ∧
  decode 0x0000000010008001#64 = .ok (.construct 128#16 16#16) ∧
  decode 0x0000000080008002#64 = .ok (.encrypt 128#16 128#16) ∧
  decode 0x0000000080008003#64 = .ok (.decrypt 128#16 128#16) ∧
  (Instr.construct 32#16 16#16).wf .v256 = true ∧ (Instr.encrypt 64#16 64#16).wf .v512 = true ∧
  (Instr.decrypt 128#16 128#16).wf .v1024 = true

/-- R98. Only a command that is well formed for the variant can end without an error. -/
def Obligations.OnlyWellFormedCommandsSucceed : Prop :=
  ∀ (i : Instr) (s t : State), exec i s = .next t → t.err = .none → i.wf s.variant = true

/-! ### Issue and completion -/

/-- R180, R181. A CMD write to an idle engine takes the snapshot, sets BUSY and clears DONE, ERR and
ERR_INFO; one to a busy engine sets OVERRUN; neither changes anything else but the port's answer. -/
def Obligations.CmdWriteIssuesOrOverruns : Prop :=
  ∀ (s : State) (addr : Nat) (w : Word) (rest : List Event),
    s.inputs = .access ⟨addr, .bytes 8, .write w⟩ :: rest → addr % 4096 = 0x018 →
    (s.pending = true →
      step s = .next { s with inputs := rest, response := some .ok, overrun := true }) ∧
    (s.pending = false →
      ∃ key data : List Word,
        key.length = s.variant.nw ∧ data.length = s.variant.nw ∧
        (∀ j : Fin 16, j.val < s.variant.nw →
          key.getD j.val 0#64 = s.keyIn[j] ∧ data.getD j.val 0#64 = s.dataIn[j]) ∧
        step s = .next { s with
          inputs := rest, response := some .ok, latch := ⟨w, key, s.tweakIn, data⟩
          pending := true, done := false, err := .none, errInfo := 0#16 })

/-- R182, R183. The engine's turn with a command in flight is the meaning of the command that
LATCH.cmd decodes to; a word placed for the next step (model choice, log 7) is issued and is what
that step runs. -/
def Obligations.StepRunsTheDecodedCommand : Prop :=
  (∀ (s : State) (i : Instr), s.pending = true → s.engineMoves → decode s.latch.cmd = .ok i →
    step s = exec i { s with inputs := s.inputs.tail }) ∧
  ∀ (s : State) (nbits w : Nat) (i : Instr), decodeTableWord nbits w = some i →
    step (s.withFetchWord nbits w) = exec i (s.issue (BitVec.ofNat 64 (w % 2 ^ nbits)))

/-- R182. With nothing in flight the engine's turn (an event of the model's, log 6) changes nothing. -/
def Obligations.IdleEngineChangesNothing : Prop :=
  ∀ s : State, s.pending = false → s.engineMoves →
    step s = .next { s with inputs := s.inputs.tail }

/-- R187, R218. A word with a reserved OP or a non-zero reserved bit completes with ILLEGAL_CMD,
whatever ST is, and only STATUS changes. -/
def Obligations.IllegalWordEndsWithIllegalCmd : Prop :=
  ∀ s : State, s.pending = true → s.engineMoves →
    (s.latch.cmd.extractLsb' 0 4 = 0#4 ∨ 4 ≤ (s.latch.cmd.extractLsb' 0 4).toNat ∨
      s.latch.cmd.extractLsb' 4 4 ≠ 0#4 ∨ s.latch.cmd.extractLsb' 40 24 ≠ 0#24) →
    step s = .next { s with
      inputs := s.inputs.tail, err := .illegalCmd, errInfo := 0#16, pending := false, done := true }

/-- R182, R212. Every completion clears BUSY, sets DONE and keeps OVERRUN; one that reports an error
writes ERR and the info value that goes with it, and leaves all the rest as it was. -/
def Obligations.CompletionWithAnErrorWritesOnlyStatus : Prop :=
  ∀ s : State, s.pending = true → s.engineMoves →
    ∃ t, step s = .next t ∧ t.pending = false ∧ t.done = true ∧ t.overrun = s.overrun ∧
      t.errInfo = t.err.info s.variant ∧
      (t.err ≠ .none → t = { s with
        inputs := s.inputs.tail, err := t.err, errInfo := t.err.info s.variant, pending := false,
        done := true })

/-- R221. A completion reports exactly the first error that applies. -/
def Obligations.FirstApplicableErrorIsReported : Prop :=
  ∀ s t : State, s.pending = true → s.engineMoves → step s = .next t →
    t.err =
      match decode s.latch.cmd with
      | .error _ => .illegalCmd
      | .ok (.construct la lb) =>
        if s.st = .constructed then .alreadyConstructed
        else if la.toNat ≠ 8 * s.variant.nw then .keySize
        else if lb.toNat ≠ 16 then .tweakSize
        else .none
      | .ok (.encrypt la lb) | .ok (.decrypt la lb) =>
        if s.st = .uninit then .notConstructed
        else if la.toNat ≠ 8 * s.variant.nw ∨ lb.toNat ≠ 8 * s.variant.nw then .lengthViolation
        else .none

/-- R257. A command in flight completes after finitely many steps if no reset comes in between, at
the latest when the host's accesses are used up. -/
def Obligations.EveryIssuedCommandCompletes : Prop :=
  ∀ s : State, s.pending = true → .reset ∉ s.inputs →
    ∃ k t, k ≤ s.inputs.length + 1 ∧ core.run k s = .next t ∧ t.pending = false ∧ t.done = true

/-- R38, R65, R181. Whatever the host reads or writes while a command is in flight, CMD included, the
completion reports and writes what it would have without those accesses. -/
def Obligations.HostAccessesDoNotDisturbTheCommandInFlight : Prop :=
  ∀ (s : State) (accesses : List BusAccess) (rest : List Event) (t u : State),
    s.pending = true → s.inputs = accesses.map .access ++ .engine :: rest →
    core.run (accesses.length + 1) s = .next t →
    step { s with inputs := .engine :: rest } = .next u →
    t.err = u.err ∧ t.errInfo = u.errInfo ∧ t.st = u.st ∧ t.ks = u.ks ∧ t.dataOut = u.dataOut ∧
      t.pending = u.pending ∧ t.done = u.done ∧ t.inputs = u.inputs

/-- R222. A CMD write that arrives with a completion counts as arriving after it: it issues and
OVERRUN keeps its value. -/
def Obligations.CmdWriteAfterCompletionIssues : Prop :=
  ∀ (s : State) (addr : Nat) (w : Word) (rest : List Event),
    s.pending = true → addr % 4096 = 0x018 →
    s.inputs = .engine :: .access ⟨addr, .bytes 8, .write w⟩ :: rest →
    ∃ t, core.run 2 s = .next t ∧ t.pending = true ∧ t.latch.cmd = w ∧ t.overrun = s.overrun ∧
      t.response = some .ok

/-! ### The commands -/

/-- R184, R213, R214, R217. CONSTRUCT in UNINIT with the right lengths writes KS with the schedule of
the latched key and tweak, sets ST and reports success; on a constructed engine, with a wrong key
length, or with a right key length and a wrong tweak length it reports that error. In each case
nothing else changes, but that the success says nothing of V and D, which the spec leaves
unspecified, and of the model's counter of free values (log 4). -/
def Obligations.ConstructInstallsTheScheduleOrReports : Prop :=
  ∀ (s : State) (la lb : BitVec 16),
    (s.st = .uninit → la.toNat = 8 * s.variant.nw → lb.toNat = 16 →
      ∃ (dp : Datapath) (n : Nat), exec (.construct la lb) s = .next { s with
        ks := schedule s.variant s.latch.key s.latch.tweak, st := .constructed
        dp := dp, freeCount := n
        err := .none, errInfo := 0#16, pending := false, done := true }) ∧
    (s.st = .constructed →
      exec (.construct la lb) s = .next { s with
        err := .alreadyConstructed, errInfo := 0#16, pending := false, done := true }) ∧
    (s.st = .uninit → la.toNat ≠ 8 * s.variant.nw →
      exec (.construct la lb) s = .next { s with
        err := .keySize, errInfo := BitVec.ofNat 16 (8 * s.variant.nw), pending := false
        done := true }) ∧
    (s.st = .uninit → la.toNat = 8 * s.variant.nw → lb.toNat ≠ 16 →
      exec (.construct la lb) s = .next { s with
        err := .tweakSize, errInfo := 16#16, pending := false, done := true })

/-- R185, R186, R215, R216. ENCRYPT and DECRYPT on a constructed engine with the right lengths write
the NW words of DATA_OUT with ENCRYPT_BLOCK and DECRYPT_BLOCK of the latched block and report
success; nothing else changes but V and D, which the spec leaves unspecified, and the model's
counter of free values (model choice, log 4). In UNINIT, whatever the lengths, and with a wrong length in CONSTRUCTED they
report that error and nothing else changes: DATA_OUT keeps its words. -/
def Obligations.EncryptAndDecryptWriteTheResultOrReport : Prop :=
  ∀ (s : State) (la lb : BitVec 16) (i : Instr)
    (block : Variant → List (List Word) → List Word → List Word),
    (i = .encrypt la lb ∧ block = encryptBlock) ∨ (i = .decrypt la lb ∧ block = decryptBlock) →
    (s.st = .constructed → la.toNat = 8 * s.variant.nw → lb.toNat = 8 * s.variant.nw →
      ∃ (out : Vector Word 16) (dp : Datapath) (n : Nat),
        (∀ j : Fin 16, out[j] =
          if j.val < s.variant.nw then (block s.variant s.ks s.latch.data).getD j.val 0#64
          else s.dataOut[j]) ∧
        exec i s = .next { s with
          dataOut := out, dp := dp, freeCount := n
          err := .none, errInfo := 0#16, pending := false, done := true }) ∧
    (s.st = .uninit →
      exec i s = .next { s with
        err := .notConstructed, errInfo := 0#16, pending := false, done := true }) ∧
    (s.st = .constructed → (la.toNat ≠ 8 * s.variant.nw ∨ lb.toNat ≠ 8 * s.variant.nw) →
      exec i s = .next { s with
        err := .lengthViolation, errInfo := BitVec.ofNat 16 (8 * s.variant.nw), pending := false
        done := true })

/-- Frame of the three commands over the bytes of the window's registers, key and tweak included: CONSTRUCT changes no byte but those of
STATUS; ENCRYPT and DECRYPT change no byte but those of STATUS and of the NW words of DATA_OUT. -/
def Obligations.CommandsChangeOnlyStatusAndResultBytes : Prop :=
  ∀ (s t : State) (la lb : BitVec 16) (a : Nat), ¬(0x010 ≤ a ∧ a < 0x018) →
    (exec (.construct la lb) s = .next t → t.windowByte a = s.windowByte a) ∧
    (∀ i, i = .encrypt la lb ∨ i = .decrypt la lb → exec i s = .next t →
      ¬(0x280 ≤ a ∧ a < 0x280 + 8 * s.variant.nw) → t.windowByte a = s.windowByte a)

/-- R191. What a command reports and writes depends on LATCH, ST and KS alone, in one variant. -/
def Obligations.OutcomeDependsOnLatchStAndKsAlone : Prop :=
  ∀ (i : Instr) (s t s' t' : State),
    s.variant = t.variant → s.latch = t.latch → s.st = t.st → s.ks = t.ks →
    exec i s = .next s' → exec i t = .next t' →
    s'.err = t'.err ∧ s'.errInfo = t'.errInfo ∧ s'.st = t'.st ∧ s'.ks = t'.ks ∧
      (∀ j : Fin 16, s'.dataOut[j] ≠ s.dataOut[j] → s'.dataOut[j] = t'.dataOut[j]) ∧
      s'.latch = t'.latch ∧ s'.pending = t'.pending ∧ s'.done = t'.done

/-- R190. Once constructed, an engine whose turn comes with a well-formed ENCRYPT or DECRYPT word in
LATCH reports no error. -/
def Obligations.ConstructedEngineNeverFailsWellFormedWords : Prop :=
  ∀ (s : State) (i : Instr) (la lb : BitVec 16), i = .encrypt la lb ∨ i = .decrypt la lb →
    s.pending = true → s.engineMoves → s.st = .constructed → i.wf s.variant = true →
    s.latch.cmd = encode i →
    ∃ t, step s = .next t ∧ t.err = .none ∧ t.done = true ∧ t.st = .constructed ∧ t.ks = s.ks

/-! ### The Key Scheduler and the Round Engine -/

/-- R125, R127. The schedule has NS groups of NW words, and word `i` of group `s` is the extended-key
word `(s + i) mod (NW + 1)`, with the tweak word or the group number added at the last three
positions. -/
def Obligations.ScheduleFollowsTheSubkeyFormula : Prop :=
  ∀ (v : Variant) (k : List Word) (t : Vector Word 2), k.length = v.nw →
    (schedule v k t).length = v.nr / 4 + 1 ∧
    (∀ g ∈ schedule v k t, g.length = v.nw) ∧
    ∀ s i : Nat, s ≤ v.nr / 4 → i < v.nw →
      ksWord (schedule v k t) s i =
        (if (s + i) % (v.nw + 1) = v.nw then
            k.foldr (fun w x => w ^^^ x) 0x1BD11BDAA9FC1A22#64
          else k.getD ((s + i) % (v.nw + 1)) 0#64) +
        (if i + 3 = v.nw then
            (if s % 3 = 0 then t[0] else if s % 3 = 1 then t[1] else t[0] ^^^ t[1])
          else if i + 2 = v.nw then
            (if s % 3 = 0 then t[1] else if s % 3 = 1 then t[0] ^^^ t[1] else t[0])
          else if i + 1 = v.nw then BitVec.ofNat 64 s
          else 0#64)

/-- R13. `rotl` moves bit `i` to bit `(i + r) mod 64`, `rotr` moves it back, and the amount counts
modulo 64. -/
def Obligations.RotationsAreCircular : Prop :=
  ∀ (x : Word) (r i : Nat), i < 64 →
    (rotl x r).getLsbD ((i + r) % 64) = x.getLsbD i ∧
    (rotr x r).getLsbD i = x.getLsbD ((i + r) % 64) ∧
    rotl x (r + 64) = rotl x r

/-- R149. UNMIX undoes MIX and MIX undoes UNMIX, for every pair and every rotation. -/
def Obligations.UnmixInvertsMix : Prop :=
  ∀ (a b : Word) (r : Nat),
    unmix (mix a b r).1 (mix a b r).2 r = (a, b) ∧ mix (unmix a b r).1 (unmix a b r).2 r = (a, b)

/-- R147, R150. The second permutation table inverts the first, so UNPERMUTE and PERMUTE undo each
other on a block. -/
def Obligations.UnpermuteInvertsPermute : Prop :=
  ∀ (v : Variant) (f : List Word), f.length = v.nw →
    unpermute v (permute v f) = f ∧ permute v (unpermute v f) = f ∧
    ∀ i, i < v.nw → (permInvTable v).getD ((permTable v).getD i 0) 0 = i

/-- R153. UNROUND of a round undoes ROUND of the same round, and the other way round. -/
def Obligations.UnroundInvertsRound : Prop :=
  ∀ (v : Variant) (d : Nat) (x : List Word), x.length = v.nw →
    unroundStep v d (roundStep v d x) = x ∧ roundStep v d (unroundStep v d x) = x

/-- R151. EJECT of a subkey group undoes INJECT of it, word by word with no carry between words. -/
def Obligations.EjectInvertsInject : Prop :=
  ∀ (ks : List (List Word)) (s : Nat) (x : List Word),
    eject ks s (inject ks s x) = x ∧ inject ks s (eject ks s x) = x ∧
    ∀ i, i < x.length →
      (inject ks s x).getD i 0#64 = x.getD i 0#64 + ksWord ks s i ∧
      (eject ks s x).getD i 0#64 = x.getD i 0#64 - ksWord ks s i

/-- R156. DECRYPT_BLOCK and ENCRYPT_BLOCK are inverse to each other under every schedule, for every
block of every variant. -/
def Obligations.DecryptBlockInvertsEncryptBlock : Prop :=
  ∀ (v : Variant) (ks : List (List Word)) (x : List Word), x.length = v.nw →
    decryptBlock v ks (encryptBlock v ks x) = x ∧ encryptBlock v ks (decryptBlock v ks x) = x

/-- R154, R155 and R39. The runs on the working registers V and D compute the loops the rules write:
rounds 0 to NR-1 ascending with their injections, and descending with their ejections. -/
def Obligations.BlockFunctionsAreTheRuleLoops : Prop :=
  ∀ (v : Variant) (ks : List (List Word)) (x : List Word),
    encryptBlock v ks x =
      inject ks (v.nr / 4) ((List.range v.nr).foldl
        (fun y d => roundStep v d (if d % 4 = 0 then inject ks (d / 4) y else y)) x) ∧
    decryptBlock v ks x =
      (List.range v.nr).reverse.foldl
        (fun y d => if d % 4 = 0 then eject ks (d / 4) (unroundStep v d y) else unroundStep v d y)
        (eject ks (v.nr / 4) x)

/-- R186. On the engine: the result of an ENCRYPT, loaded into DATA_IN and issued as a DECRYPT, gives
back the block that was encrypted. -/
def Obligations.EngineDecryptsWhatItEncrypted : Prop :=
  ∀ (s t u : State) (la lb : BitVec 16),
    s.st = .constructed → la.toNat = 8 * s.variant.nw → lb.toNat = 8 * s.variant.nw →
    s.latch.data.length = s.variant.nw →
    exec (.encrypt la lb) s = .next t →
    exec (.decrypt la lb) ({ t with dataIn := t.dataOut }.issue (encode (.decrypt la lb))) = .next u →
    u.err = .none ∧
      ∀ j : Fin 16, j.val < s.variant.nw → u.dataOut[j] = s.latch.data.getD j.val 0#64

/-- The published ciphertexts of the all-zero key, tweak and block in the three variants. -/
def Obligations.PublishedZeroCiphertexts : Prop :=
  encryptBlock .v256 (schedule .v256 (List.replicate 4 0#64) (Vector.replicate 2 0#64))
      (List.replicate 4 0#64) =
    [0x94EEEA8B1F2ADA84#64, 0xADF103313EAE6670#64, 0x952419A1F4B16D53#64, 0xD83F13E63C9F6B11#64] ∧
  encryptBlock .v512 (schedule .v512 (List.replicate 8 0#64) (Vector.replicate 2 0#64))
      (List.replicate 8 0#64) =
    [0xBC2560EFC6BBA2B1#64, 0xE3361F162238EB40#64, 0xFB8631EE0ABBD175#64, 0x7B9479D4C5479ED1#64,
     0xCFF0356E58F8C27B#64, 0xB1B7B08430F0E7F7#64, 0xE9A380A56139ABF1#64, 0xBE7B6D4AA11EB47E#64] ∧
  encryptBlock .v1024 (schedule .v1024 (List.replicate 16 0#64) (Vector.replicate 2 0#64))
      (List.replicate 16 0#64) =
    [0x04B3053D0A3D5CF0#64, 0x0136E0D1C7DD85F7#64, 0x067B212F6EA78A5C#64, 0x0DA9C10B4C54E1C6#64,
     0x0F4EC27394CBACF0#64, 0x32437F0568EA4FD5#64, 0xCFF56D1D7654B49C#64, 0xA2D5FB14369B2E7B#64,
     0x540306B460472E0B#64, 0x71C18254BCEA820D#64, 0xC36B4068BEAF32C8#64, 0xFA4329597A360095#64,
     0xC4A36C28434A5B9A#64, 0xD54331444B1046CF#64, 0xDF11834830B2A460#64, 0x1E39E8DFE1F7EE4F#64]

/-! ### The register window -/

/-- R64. What an accepted read of each offset returns; the step changes nothing but the port's
answer. -/
def Obligations.ReadReturnsTheRegisterOfTheMap : Prop :=
  ∀ (s : State) (addr : Nat) (rest : List Event),
    s.inputs = .access ⟨addr, .bytes 8, .read⟩ :: rest → addr % 8 = 0 →
    ∃ w, step s = .next { s with inputs := rest, response := some (.data w) } ∧
      (addr % 4096 = 0x000 → w = s.idWord) ∧
      (addr % 4096 = 0x008 → w = BitVec.ofNat 64 (8 * s.variant.nw)) ∧
      (addr % 4096 = 0x010 → w = s.statusWord) ∧
      (∀ j : Fin 16, addr % 4096 = 0x200 + 8 * j.val → j.val < s.variant.nw → w = s.dataIn[j]) ∧
      (∀ j : Fin 16, addr % 4096 = 0x280 + 8 * j.val → j.val < s.variant.nw → w = s.dataOut[j]) ∧
      ((addr % 4096 = 0x018 ∨ (0x020 ≤ addr % 4096 ∧ addr % 4096 < 0x200) ∨
        (0x200 + 8 * s.variant.nw ≤ addr % 4096 ∧ addr % 4096 < 0x280) ∨
        0x280 + 8 * s.variant.nw ≤ addr % 4096) → w = 0#64)

/-- R65. What an accepted write to each offset does, CMD apart; where the map ignores it the step
changes nothing but the port's answer. -/
def Obligations.WriteActsOnTheRegisterOfTheMap : Prop :=
  ∀ (s : State) (addr : Nat) (w : Word) (rest : List Event),
    s.inputs = .access ⟨addr, .bytes 8, .write w⟩ :: rest → addr % 8 = 0 →
    (addr % 4096 = 0x010 → step s = .next { s with
      inputs := rest, response := some .ok
      overrun := if w.getLsbD 3 then false else s.overrun }) ∧
    (addr % 4096 = 0x018 → step s = .next { (s.commandRequest w) with
      inputs := rest, response := some .ok }) ∧
    (∀ j : Fin 16, addr % 4096 = 0x100 + 8 * j.val → j.val < s.variant.nw → step s = .next { s with
      inputs := rest, response := some .ok, keyIn := s.keyIn.set j w }) ∧
    (∀ j : Fin 2, addr % 4096 = 0x180 + 8 * j.val → step s = .next { s with
      inputs := rest, response := some .ok, tweakIn := s.tweakIn.set j w }) ∧
    (∀ j : Fin 16, addr % 4096 = 0x200 + 8 * j.val → j.val < s.variant.nw → step s = .next { s with
      inputs := rest, response := some .ok, dataIn := s.dataIn.set j w }) ∧
    ((addr % 4096 < 0x010 ∨ (0x020 ≤ addr % 4096 ∧ addr % 4096 < 0x100) ∨
      (0x100 + 8 * s.variant.nw ≤ addr % 4096 ∧ addr % 4096 < 0x180) ∨
      (0x190 ≤ addr % 4096 ∧ addr % 4096 < 0x200) ∨
      0x200 + 8 * s.variant.nw ≤ addr % 4096) →
      step s = .next { s with inputs := rest, response := some .ok })

/-- R63, R220. An access of another width, a burst, or an access at an offset that is no multiple of
8 is answered with BusError and changes nothing, at CMD and at reserved offsets too. -/
def Obligations.RefusedAccessChangesNothing : Prop :=
  ∀ (s : State) (a : BusAccess) (rest : List Event), s.inputs = .access a :: rest →
    (a.width ≠ .bytes 8 ∨ a.addr % 8 ≠ 0) →
    step s = .next { s with inputs := rest, response := some .busError }

/-- R69. A read has no side effect: the machine answers every later read as it would have without
it. -/
def Obligations.ReadsAreIdempotent : Prop :=
  ∀ (s t : State) (addr : Nat) (rest : List Event),
    s.inputs = .access ⟨addr, .bytes 8, .read⟩ :: .access ⟨addr, .bytes 8, .read⟩ :: rest →
    step s = .next t →
    (∀ off, t.memRead off = s.memRead off) ∧
      ∃ u, step t = .next u ∧ u.response = t.response ∧ u = { t with inputs := rest }

/-- R60. The window decodes the host address's bits 11..0 only: an address BASE + offset reaches the
offset, whatever BASE is, and adding a multiple of 4096 to an address changes nothing. -/
def Obligations.OnlyTheLowTwelveAddressBitsCount : Prop :=
  (∀ off, off < 4096 → windowOffset (Config.base + off) = off) ∧
  ∀ (s : State) (addr n : Nat) (width : AccessWidth) (kind : AccessKind) (rest : List Event),
    step { s with inputs := .access ⟨addr + 4096 * n, width, kind⟩ :: rest } =
      step { s with inputs := .access ⟨addr, width, kind⟩ :: rest }

/-- R66, R67. The window's bytes from 0x100 are the bytes of the key registers in order, those from
0x180 the bytes of the tweak registers, those from 0x200 the bytes of the source block and those from
0x280 the result bytes. -/
def Obligations.WindowBytesAreTheBlockBytes : Prop :=
  ∀ (s : State) (i : Nat),
    (i < 8 * s.variant.nw →
      s.windowByte (0x100 + i) = (leBytes (usedWords s.variant s.keyIn)).getD i 0#8 ∧
      s.windowByte (0x200 + i) = (leBytes (usedWords s.variant s.dataIn)).getD i 0#8 ∧
      s.windowByte (0x280 + i) = s.resultBytes.getD i 0#8) ∧
    (i < 16 → s.windowByte (0x180 + i) = (leBytes s.tweakIn.toList).getD i 0#8)

/-- R14. LEBYTES and LEWORDS undo each other. -/
def Obligations.BytesAndWordsRoundTrip : Prop :=
  (∀ (bs : List Byte) (n : Nat), bs.length = 8 * n → leBytes (leWords bs n) = bs) ∧
  ∀ ws : List Word, leWords (leBytes ws) ws.length = ws

/-- R78. Two engines that differ only in KEY_IN, TWEAK_IN, KS, LATCH, V and D read alike at every
offset of the window. -/
def Obligations.KeyMaterialCannotBeReadBack : Prop :=
  ∀ s t : State, SameButSecrets s t → ∀ off, s.memRead off = t.memRead off

/-- R100. The command pseudo-instructions write to CMD the word that the rule's formula gives. -/
def Obligations.CommandPseudosWriteTheRuleWord : Prop :=
  ∀ (v : Variant) (la lb : BitVec 16),
    (HostOp.construct la lb).expand v =
      [wr .cmd (BitVec.ofNat 64 (lb.toNat <<< 24 ||| la.toNat <<< 8 ||| 0x1))] ∧
    (HostOp.encrypt la lb).expand v =
      [wr .cmd (BitVec.ofNat 64 (lb.toNat <<< 24 ||| la.toNat <<< 8 ||| 0x2))] ∧
    (HostOp.decrypt la lb).expand v =
      [wr .cmd (BitVec.ofNat 64 (lb.toNat <<< 24 ||| la.toNat <<< 8 ||| 0x3))]

/-- R250. With no command issued and none completed, no number of STATUS reads ends a POLL. -/
def Obligations.PollWithoutIssueNeverEnds : Prop :=
  ∀ (s : State) (n : Nat), s.pending = false → s.done = false →
    s.inputs = List.replicate n (rd .status) →
    ∀ k, k ≤ n → ∃ t, core.run k s = .next t ∧ pollEnds (t.memRead 0x010) = false

/-! ### Rules of the whole machine -/

/-- The state after reset meets the invariants, in each variant. Its KS, LATCH, V and D, which the
spec leaves unspecified, are the model's choice (logs 2 and 14). -/
def Obligations.ResetMeetsTheInvariants : Prop :=
  ∀ v : Variant, (State.resetOf v).Wf ∧ (State.resetOf v).HoldsSchedule

/-- Every step keeps the well-formedness of the state: reserved slots stay 0, the shapes of KS, LATCH
and V are kept, and the STATUS fields stay consistent. That D stays within 0 to NR-1 between commands
is the model's choice (log 14): R39 leaves D unspecified there. -/
def Obligations.StepKeepsWellFormedStates : Prop :=
  ∀ s t : State, s.Wf → step s = .next t → t.Wf

/-- R127, R128. Every step keeps this: in CONSTRUCTED, KS is the schedule of some key and tweak. -/
def Obligations.StepKeepsTheScheduleInvariant : Prop :=
  ∀ s t : State, s.Wf → s.HoldsSchedule → step s = .next t → t.HoldsSchedule

/-- R223. No step stops the machine: an error does not stop the engine and does not block later
commands. -/
def Obligations.EveryStepHasANextState : Prop :=
  ∀ s : State, ∃ t, step s = .next t

/-- R36, R128. A reset leaves UNINIT. CONSTRUCTED is left by reset only, and until then KS does not
change; it is entered only by the engine's completion of a CONSTRUCT with the right lengths. -/
def Obligations.ConstructedIsTerminalUntilReset : Prop :=
  (∀ v, (State.resetOf v).st = .uninit) ∧
  ∀ s t : State, step s = .next t →
    (s.inputs.head? = some .reset → t.st = .uninit) ∧
    (s.inputs.head? ≠ some .reset → s.st = .constructed → t.st = .constructed ∧ t.ks = s.ks) ∧
    (s.st = .uninit → t.st = .constructed →
      s.pending = true ∧ s.engineMoves ∧
        ∃ la lb, decode s.latch.cmd = .ok (.construct la lb) ∧ la.toNat = 8 * s.variant.nw ∧
          lb.toNat = 16)

/-- R34. DATA_OUT changes only at a reset or when the engine completes an ENCRYPT or DECRYPT with the
right lengths on a constructed engine. -/
def Obligations.DataOutChangesOnlyBySuccessfulCrypt : Prop :=
  ∀ s t : State, step s = .next t → t.dataOut ≠ s.dataOut →
    s.inputs.head? = some .reset ∨
      (s.pending = true ∧ s.engineMoves ∧ s.st = .constructed ∧ t.err = .none ∧
        ∃ la lb, (decode s.latch.cmd = .ok (.encrypt la lb) ∨
          decode s.latch.cmd = .ok (.decrypt la lb)) ∧
          la.toNat = 8 * s.variant.nw ∧ lb.toNat = 8 * s.variant.nw)

/-- R31, R32, R33. An input register changes only at a reset, or to the value of an accepted host
write at its own offset: no command writes one, and a reserved slot never changes. -/
def Obligations.InputRegistersChangeOnlyByTheirOwnWrite : Prop :=
  ∀ s t : State, step s = .next t → s.inputs.head? ≠ some .reset →
    (∀ j : Fin 16, t.keyIn[j] ≠ s.keyIn[j] → j.val < s.variant.nw ∧
      ∃ addr, s.inputs.head? = some (.access ⟨addr, .bytes 8, .write t.keyIn[j]⟩) ∧
        addr % 4096 = 0x100 + 8 * j.val) ∧
    (∀ j : Fin 2, t.tweakIn[j] ≠ s.tweakIn[j] →
      ∃ addr, s.inputs.head? = some (.access ⟨addr, .bytes 8, .write t.tweakIn[j]⟩) ∧
        addr % 4096 = 0x180 + 8 * j.val) ∧
    (∀ j : Fin 16, t.dataIn[j] ≠ s.dataIn[j] → j.val < s.variant.nw ∧
      ∃ addr, s.inputs.head? = some (.access ⟨addr, .bytes 8, .write t.dataIn[j]⟩) ∧
        addr % 4096 = 0x200 + 8 * j.val)

/-- D23, K-8, K-9, K-10: no rule reads what the spec leaves unspecified. Two machines that agree on
all that is specified, run over the same events, agree on it after every number of steps, and so
answer every access alike. -/
def Obligations.UnspecifiedStateIsNeverObserved : Prop :=
  ∀ (n : Nat) (s t s' t' : State), SameSpecified s t →
    core.run n s = .next s' → core.run n t = .next t' →
    SameSpecified s' t' ∧ s'.response = t'.response ∧ ∀ off, s'.memRead off = t'.memRead off

/-- R254. The latency of a command depends on its word, ST and the variant, never on the key, tweak,
data, KS or any other part of the state. -/
def Obligations.LatencyDependsOnPublicValuesOnly : Prop :=
  ∀ s t : State, s.variant = t.variant → s.st = t.st → s.latch.cmd = t.latch.cmd →
    s.latency = t.latency

/-- R256. A command that completes without an error takes its own latency, one that completes with an
error takes LAT_REJECT, and every latency is at least one cycle. -/
def Obligations.LatencyFollowsTheOutcome : Prop :=
  ∀ s t : State, s.pending = true → engineStep s = .next t →
    1 ≤ s.latency ∧ (t.err ≠ .none → s.latency = Config.latReject s.variant) ∧
    (t.err = .none → ∀ la lb,
      (decode s.latch.cmd = .ok (.construct la lb) → s.latency = Config.latConstruct s.variant) ∧
      (decode s.latch.cmd = .ok (.encrypt la lb) → s.latency = Config.latEncrypt s.variant) ∧
      (decode s.latch.cmd = .ok (.decrypt la lb) → s.latency = Config.latDecrypt s.variant))

/-- R67. A key, tweak or source block given as bytes and written to the registers in order leaves word
`j` equal to LE64 of its bytes `8j` to `8j+7`, the register bytes of the window at 0x100, 0x180 and
0x200 equal to the given bytes in order, and the rest of the state as it was but for the events and
the port's answer. The result bytes are LEBYTES of DATA_OUT: byte `b` of its word `j` is result byte
`8j + b`, and the register bytes from 0x280 are the result bytes. -/
def Obligations.ByteInterfaceMapsOntoTheRegisters : Prop :=
  ∀ (s : State) (bs : List Byte) (rest : List Event),
    (bs.length = 8 * s.variant.nw → s.inputs = writeKeyBytes s.variant bs ++ rest →
      ∃ key : Vector Word 16,
        (∀ j : Fin 16, key[j] = if j.val < s.variant.nw then leWord bs j.val else s.keyIn[j]) ∧
        core.run s.variant.nw s = .next { s with
          keyIn := key, inputs := rest, response := some .ok } ∧
        ∀ i, i < 8 * s.variant.nw → { s with keyIn := key }.windowByte (0x100 + i) = bs.getD i 0#8) ∧
    (bs.length = 16 → s.inputs = writeTweakBytes s.variant bs ++ rest →
      core.run 2 s = .next { s with
        tweakIn := #v[leWord bs 0, leWord bs 1], inputs := rest, response := some .ok } ∧
      ∀ i, i < 16 →
        { s with tweakIn := #v[leWord bs 0, leWord bs 1] }.windowByte (0x180 + i) =
          bs.getD i 0#8) ∧
    (bs.length = 8 * s.variant.nw → s.inputs = writeSourceBytes s.variant bs ++ rest →
      ∃ src : Vector Word 16,
        (∀ j : Fin 16, src[j] = if j.val < s.variant.nw then leWord bs j.val else s.dataIn[j]) ∧
        core.run s.variant.nw s = .next { s with
          dataIn := src, inputs := rest, response := some .ok } ∧
        ∀ i, i < 8 * s.variant.nw →
          { s with dataIn := src }.windowByte (0x200 + i) = bs.getD i 0#8) ∧
    s.resultBytes.length = 8 * s.variant.nw ∧
    ∀ (j : Fin 16) (b : Nat), j.val < s.variant.nw → b < 8 →
      s.resultBytes.getD (8 * j.val + b) 0#8 = byteLane s.dataOut[j] b ∧
      s.windowByte (0x280 + (8 * j.val + b)) = s.resultBytes.getD (8 * j.val + b) 0#8

/-! ### POLL -/

/-- R100. A host at a POLL reads STATUS: with BUSY = 0 and DONE = 1 it goes on to the next line,
otherwise it goes back to the read. The read changes nothing but the port's answer. That host,
engine and reset take turns in any order is the model's form of a run (log 15). -/
def Obligations.PollRepeatsItsReadUntilTheTestHolds : Prop :=
  ∀ (r : HostRun) (v : Variant) (rest : List HostLine), r.lines = HostOp.poll.lines v ++ rest →
    (r.machine.pending = false → r.machine.done = true →
      r.turn .host = .next ⟨{ r.machine with
        response := some (.data r.machine.statusWord) }, rest⟩) ∧
    (r.machine.pending = true ∨ r.machine.done = false →
      r.turn .host = .next ⟨{ r.machine with
        response := some (.data r.machine.statusWord) }, r.lines⟩)

/-- K-14, R250. A host at a POLL with no command in flight and none completed waits for ever: after
any turns of host, engine and reset, in any order, it is still at the POLL, and still no command is
in flight and none completed. -/
def Obligations.PollWithNoCommandIsStuck : Prop :=
  ∀ (turns : List Turn) (r : HostRun) (v : Variant) (rest : List HostLine),
    r.lines = HostOp.poll.lines v ++ rest → r.machine.pending = false → r.machine.done = false →
    ∃ t, r.run turns = .next t ∧ t.lines = r.lines ∧ t.machine.pending = false ∧
      t.machine.done = false

/-- R100. A POLL that follows an issue ends after the completion and not before it: however often the
host reads while the command is in flight it stays at the POLL, and its first read after the engine's
turn, with any turns of the engine more, ends it. -/
def Obligations.PollEndsAfterTheCompletionItFollows : Prop :=
  ∀ (r : HostRun) (v : Variant) (rest : List HostLine) (early idle : Nat),
    r.lines = HostOp.poll.lines v ++ rest → r.machine.pending = true →
    (∃ t, r.run (List.replicate early .host) = .next t ∧ t.lines = r.lines ∧
      t.machine.pending = true) ∧
    ∃ t, r.run (List.replicate early .host ++ .engine :: (List.replicate idle .engine ++ [.host])) =
        .next t ∧
      t.lines = rest ∧ t.machine.pending = false ∧ t.machine.done = true ∧
      t.machine.response = some (.data t.machine.statusWord)
end

