-- ==== Sys2Proof/Laws/Fields.lean ====
section
/-! SUPPORT. The fields of the command word and of STATUS, read back from the packed words. -/

namespace Sys2Proof

/-- An appended vector as a number. -/
theorem toNat_append_add {m n : Nat} (x : BitVec m) (y : BitVec n) :
    (x ++ y).toNat = x.toNat * 2 ^ n + y.toNat := by
  rw [BitVec.toNat_append, ← Nat.shiftLeft_add_eq_or_of_lt y.isLt, Nat.shiftLeft_eq]

/-- The command word as a number (R91). -/
theorem packCommand_toNat (rsv1 : BitVec 24) (lenB lenA : BitVec 16) (rsv0 op : BitVec 4) :
    (packCommand rsv1 lenB lenA rsv0 op).toNat =
      (((rsv1.toNat * 2 ^ 16 + lenB.toNat) * 2 ^ 16 + lenA.toNat) * 2 ^ 4 + rsv0.toNat) * 2 ^ 4 +
        op.toNat := by
  unfold packCommand
  simp only [toNat_append_add]

@[simp] theorem fieldOp_pack (rsv1 : BitVec 24) (lenB lenA : BitVec 16) (rsv0 op : BitVec 4) :
    fieldOp (packCommand rsv1 lenB lenA rsv0 op) = op := by
  apply BitVec.eq_of_toNat_eq
  simp only [fieldOp, BitVec.extractLsb'_toNat, packCommand_toNat, Nat.shiftRight_eq_div_pow]
  omega

@[simp] theorem fieldRsv0_pack (rsv1 : BitVec 24) (lenB lenA : BitVec 16) (rsv0 op : BitVec 4) :
    fieldRsv0 (packCommand rsv1 lenB lenA rsv0 op) = rsv0 := by
  apply BitVec.eq_of_toNat_eq
  simp only [fieldRsv0, BitVec.extractLsb'_toNat, packCommand_toNat, Nat.shiftRight_eq_div_pow]
  omega

@[simp] theorem fieldLenA_pack (rsv1 : BitVec 24) (lenB lenA : BitVec 16) (rsv0 op : BitVec 4) :
    fieldLenA (packCommand rsv1 lenB lenA rsv0 op) = lenA := by
  apply BitVec.eq_of_toNat_eq
  simp only [fieldLenA, BitVec.extractLsb'_toNat, packCommand_toNat, Nat.shiftRight_eq_div_pow]
  omega

@[simp] theorem fieldLenB_pack (rsv1 : BitVec 24) (lenB lenA : BitVec 16) (rsv0 op : BitVec 4) :
    fieldLenB (packCommand rsv1 lenB lenA rsv0 op) = lenB := by
  apply BitVec.eq_of_toNat_eq
  simp only [fieldLenB, BitVec.extractLsb'_toNat, packCommand_toNat, Nat.shiftRight_eq_div_pow]
  omega

@[simp] theorem fieldRsv1_pack (rsv1 : BitVec 24) (lenB lenA : BitVec 16) (rsv0 op : BitVec 4) :
    fieldRsv1 (packCommand rsv1 lenB lenA rsv0 op) = rsv1 := by
  apply BitVec.eq_of_toNat_eq
  simp only [fieldRsv1, BitVec.extractLsb'_toNat, packCommand_toNat, Nat.shiftRight_eq_div_pow]
  omega

/-- A word is the packing of its five fields (R91). -/
theorem pack_fields (w : Word) :
    packCommand (fieldRsv1 w) (fieldLenB w) (fieldLenA w) (fieldRsv0 w) (fieldOp w) = w := by
  apply BitVec.eq_of_toNat_eq
  simp only [packCommand_toNat, fieldOp, fieldRsv0, fieldLenA, fieldLenB, fieldRsv1,
    BitVec.extractLsb'_toNat, Nat.shiftRight_eq_div_pow]
  omega

namespace Machine

/-- The STATUS word as a number (R23). -/
theorem packStatus_toNat (errInfo : BitVec 16) (err : BitVec 4)
    (overrun done constructed busy : Bool) :
    (packStatus errInfo err overrun done constructed busy).toNat =
      errInfo.toNat * 2 ^ 16 + err.toNat * 2 ^ 8 + overrun.toNat * 2 ^ 3 + done.toNat * 2 ^ 2 +
        constructed.toNat * 2 + busy.toNat := by
  unfold packStatus
  simp only [toNat_append_add, BitVec.toNat_ofBool, BitVec.toNat_ofNat]
  omega

end Machine

end Sys2Proof
end

