-- ==== Sys2Proof/Laws/State.lean ====
section
/-! SUPPORT. One lemma for each field of State under each operation on it, so that no proof unfolds
a record update. -/

namespace Sys2Proof.Machine

variable (s : State)

/-- An error ends a command as any completion does. -/
@[simp] theorem State.raise_eq_complete (e : CmdError) : s.raise e = s.complete e := rfl

@[simp] theorem State.issue_variant (w : Word) : (s.issue w).variant = s.variant := rfl
@[simp] theorem State.issue_pending (w : Word) : (s.issue w).pending = true := rfl
@[simp] theorem State.issue_st (w : Word) : (s.issue w).st = s.st := rfl
@[simp] theorem State.issue_done (w : Word) : (s.issue w).done = false := rfl
@[simp] theorem State.issue_overrun (w : Word) : (s.issue w).overrun = s.overrun := rfl
@[simp] theorem State.issue_err (w : Word) : (s.issue w).err = .none := rfl
@[simp] theorem State.issue_errInfo (w : Word) : (s.issue w).errInfo = 0#16 := rfl
@[simp] theorem State.issue_keyIn (w : Word) : (s.issue w).keyIn = s.keyIn := rfl
@[simp] theorem State.issue_tweakIn (w : Word) : (s.issue w).tweakIn = s.tweakIn := rfl
@[simp] theorem State.issue_dataIn (w : Word) : (s.issue w).dataIn = s.dataIn := rfl
@[simp] theorem State.issue_dataOut (w : Word) : (s.issue w).dataOut = s.dataOut := rfl
@[simp] theorem State.issue_ks (w : Word) : (s.issue w).ks = s.ks := rfl
@[simp] theorem State.issue_latch (w : Word) : (s.issue w).latch = ⟨w, usedWords s.variant s.keyIn, s.tweakIn, usedWords s.variant s.dataIn⟩ := rfl
@[simp] theorem State.issue_dp (w : Word) : (s.issue w).dp = s.dp := rfl
@[simp] theorem State.issue_freeCount (w : Word) : (s.issue w).freeCount = s.freeCount := rfl
@[simp] theorem State.issue_inputs (w : Word) : (s.issue w).inputs = s.inputs := rfl
@[simp] theorem State.issue_response (w : Word) : (s.issue w).response = s.response := rfl

@[simp] theorem State.complete_variant (e : CmdError) : (s.complete e).variant = s.variant := rfl
@[simp] theorem State.complete_pending (e : CmdError) : (s.complete e).pending = false := rfl
@[simp] theorem State.complete_st (e : CmdError) : (s.complete e).st = s.st := rfl
@[simp] theorem State.complete_done (e : CmdError) : (s.complete e).done = true := rfl
@[simp] theorem State.complete_overrun (e : CmdError) : (s.complete e).overrun = s.overrun := rfl
@[simp] theorem State.complete_err (e : CmdError) : (s.complete e).err = e := rfl
@[simp] theorem State.complete_errInfo (e : CmdError) : (s.complete e).errInfo = e.info s.variant := rfl
@[simp] theorem State.complete_keyIn (e : CmdError) : (s.complete e).keyIn = s.keyIn := rfl
@[simp] theorem State.complete_tweakIn (e : CmdError) : (s.complete e).tweakIn = s.tweakIn := rfl
@[simp] theorem State.complete_dataIn (e : CmdError) : (s.complete e).dataIn = s.dataIn := rfl
@[simp] theorem State.complete_dataOut (e : CmdError) : (s.complete e).dataOut = s.dataOut := rfl
@[simp] theorem State.complete_ks (e : CmdError) : (s.complete e).ks = s.ks := rfl
@[simp] theorem State.complete_latch (e : CmdError) : (s.complete e).latch = s.latch := rfl
@[simp] theorem State.complete_dp (e : CmdError) : (s.complete e).dp = s.dp := rfl
@[simp] theorem State.complete_freeCount (e : CmdError) : (s.complete e).freeCount = s.freeCount := rfl
@[simp] theorem State.complete_inputs (e : CmdError) : (s.complete e).inputs = s.inputs := rfl
@[simp] theorem State.complete_response (e : CmdError) : (s.complete e).response = s.response := rfl

@[simp] theorem State.releaseDatapath_variant : (s.releaseDatapath).variant = s.variant := rfl
@[simp] theorem State.releaseDatapath_pending : (s.releaseDatapath).pending = s.pending := rfl
@[simp] theorem State.releaseDatapath_st : (s.releaseDatapath).st = s.st := rfl
@[simp] theorem State.releaseDatapath_done : (s.releaseDatapath).done = s.done := rfl
@[simp] theorem State.releaseDatapath_overrun : (s.releaseDatapath).overrun = s.overrun := rfl
@[simp] theorem State.releaseDatapath_err : (s.releaseDatapath).err = s.err := rfl
@[simp] theorem State.releaseDatapath_errInfo : (s.releaseDatapath).errInfo = s.errInfo := rfl
@[simp] theorem State.releaseDatapath_keyIn : (s.releaseDatapath).keyIn = s.keyIn := rfl
@[simp] theorem State.releaseDatapath_tweakIn : (s.releaseDatapath).tweakIn = s.tweakIn := rfl
@[simp] theorem State.releaseDatapath_dataIn : (s.releaseDatapath).dataIn = s.dataIn := rfl
@[simp] theorem State.releaseDatapath_dataOut : (s.releaseDatapath).dataOut = s.dataOut := rfl
@[simp] theorem State.releaseDatapath_ks : (s.releaseDatapath).ks = s.ks := rfl
@[simp] theorem State.releaseDatapath_latch : (s.releaseDatapath).latch = s.latch := rfl
@[simp] theorem State.releaseDatapath_dp : (s.releaseDatapath).dp = freeDatapath s.variant s.freeCount := rfl
@[simp] theorem State.releaseDatapath_freeCount : (s.releaseDatapath).freeCount = s.freeCount + 1 := rfl
@[simp] theorem State.releaseDatapath_inputs : (s.releaseDatapath).inputs = s.inputs := rfl
@[simp] theorem State.releaseDatapath_response : (s.releaseDatapath).response = s.response := rfl

@[simp] theorem State.resetEvent_variant : (s.resetEvent).variant = s.variant := rfl
@[simp] theorem State.resetEvent_pending : (s.resetEvent).pending = false := rfl
@[simp] theorem State.resetEvent_st : (s.resetEvent).st = .uninit := rfl
@[simp] theorem State.resetEvent_done : (s.resetEvent).done = false := rfl
@[simp] theorem State.resetEvent_overrun : (s.resetEvent).overrun = false := rfl
@[simp] theorem State.resetEvent_err : (s.resetEvent).err = .none := rfl
@[simp] theorem State.resetEvent_errInfo : (s.resetEvent).errInfo = 0#16 := rfl
@[simp] theorem State.resetEvent_keyIn : (s.resetEvent).keyIn = Vector.replicate 16 0#64 := rfl
@[simp] theorem State.resetEvent_tweakIn : (s.resetEvent).tweakIn = Vector.replicate 2 0#64 := rfl
@[simp] theorem State.resetEvent_dataIn : (s.resetEvent).dataIn = Vector.replicate 16 0#64 := rfl
@[simp] theorem State.resetEvent_dataOut : (s.resetEvent).dataOut = Vector.replicate 16 0#64 := rfl
@[simp] theorem State.resetEvent_ks : (s.resetEvent).ks = freeSchedule s.variant s.freeCount := rfl
@[simp] theorem State.resetEvent_latch : (s.resetEvent).latch = freeLatch s.variant s.freeCount := rfl
@[simp] theorem State.resetEvent_dp : (s.resetEvent).dp = freeDatapath s.variant s.freeCount := rfl
@[simp] theorem State.resetEvent_freeCount : (s.resetEvent).freeCount = s.freeCount + 1 := rfl
@[simp] theorem State.resetEvent_inputs : (s.resetEvent).inputs = s.inputs := rfl
@[simp] theorem State.resetEvent_response : (s.resetEvent).response = none := rfl

@[simp] theorem State.placeCommand_variant (w : Word) : (s.placeCommand w).variant = s.variant := rfl
@[simp] theorem State.placeCommand_pending (w : Word) : (s.placeCommand w).pending = true := rfl
@[simp] theorem State.placeCommand_st (w : Word) : (s.placeCommand w).st = s.st := rfl
@[simp] theorem State.placeCommand_done (w : Word) : (s.placeCommand w).done = false := rfl
@[simp] theorem State.placeCommand_overrun (w : Word) : (s.placeCommand w).overrun = s.overrun := rfl
@[simp] theorem State.placeCommand_err (w : Word) : (s.placeCommand w).err = .none := rfl
@[simp] theorem State.placeCommand_errInfo (w : Word) : (s.placeCommand w).errInfo = 0#16 := rfl
@[simp] theorem State.placeCommand_keyIn (w : Word) : (s.placeCommand w).keyIn = s.keyIn := rfl
@[simp] theorem State.placeCommand_tweakIn (w : Word) : (s.placeCommand w).tweakIn = s.tweakIn := rfl
@[simp] theorem State.placeCommand_dataIn (w : Word) : (s.placeCommand w).dataIn = s.dataIn := rfl
@[simp] theorem State.placeCommand_dataOut (w : Word) : (s.placeCommand w).dataOut = s.dataOut := rfl
@[simp] theorem State.placeCommand_ks (w : Word) : (s.placeCommand w).ks = s.ks := rfl
@[simp] theorem State.placeCommand_latch (w : Word) : (s.placeCommand w).latch = (s.issue w).latch := rfl
@[simp] theorem State.placeCommand_dp (w : Word) : (s.placeCommand w).dp = s.dp := rfl
@[simp] theorem State.placeCommand_freeCount (w : Word) : (s.placeCommand w).freeCount = s.freeCount := rfl
@[simp] theorem State.placeCommand_inputs (w : Word) : (s.placeCommand w).inputs = .engine :: s.inputs := rfl
@[simp] theorem State.placeCommand_response (w : Word) : (s.placeCommand w).response = s.response := rfl

@[simp] theorem State.installSchedule_variant : (s.installSchedule).variant = s.variant := rfl
@[simp] theorem State.installSchedule_pending : (s.installSchedule).pending = s.pending := rfl
@[simp] theorem State.installSchedule_st : (s.installSchedule).st = .constructed := rfl
@[simp] theorem State.installSchedule_done : (s.installSchedule).done = s.done := rfl
@[simp] theorem State.installSchedule_overrun : (s.installSchedule).overrun = s.overrun := rfl
@[simp] theorem State.installSchedule_err : (s.installSchedule).err = s.err := rfl
@[simp] theorem State.installSchedule_errInfo : (s.installSchedule).errInfo = s.errInfo := rfl
@[simp] theorem State.installSchedule_keyIn : (s.installSchedule).keyIn = s.keyIn := rfl
@[simp] theorem State.installSchedule_tweakIn : (s.installSchedule).tweakIn = s.tweakIn := rfl
@[simp] theorem State.installSchedule_dataIn : (s.installSchedule).dataIn = s.dataIn := rfl
@[simp] theorem State.installSchedule_dataOut : (s.installSchedule).dataOut = s.dataOut := rfl
@[simp] theorem State.installSchedule_ks : (s.installSchedule).ks = schedule s.variant s.latch.key s.latch.tweak := rfl
@[simp] theorem State.installSchedule_latch : (s.installSchedule).latch = s.latch := rfl
@[simp] theorem State.installSchedule_dp : (s.installSchedule).dp = s.dp := rfl
@[simp] theorem State.installSchedule_freeCount : (s.installSchedule).freeCount = s.freeCount := rfl
@[simp] theorem State.installSchedule_inputs : (s.installSchedule).inputs = s.inputs := rfl
@[simp] theorem State.installSchedule_response : (s.installSchedule).response = s.response := rfl

@[simp] theorem State.loadDatapath_variant (f : Variant → List Word → Datapath) : (s.loadDatapath f).variant = s.variant := rfl
@[simp] theorem State.loadDatapath_pending (f : Variant → List Word → Datapath) : (s.loadDatapath f).pending = s.pending := rfl
@[simp] theorem State.loadDatapath_st (f : Variant → List Word → Datapath) : (s.loadDatapath f).st = s.st := rfl
@[simp] theorem State.loadDatapath_done (f : Variant → List Word → Datapath) : (s.loadDatapath f).done = s.done := rfl
@[simp] theorem State.loadDatapath_overrun (f : Variant → List Word → Datapath) : (s.loadDatapath f).overrun = s.overrun := rfl
@[simp] theorem State.loadDatapath_err (f : Variant → List Word → Datapath) : (s.loadDatapath f).err = s.err := rfl
@[simp] theorem State.loadDatapath_errInfo (f : Variant → List Word → Datapath) : (s.loadDatapath f).errInfo = s.errInfo := rfl
@[simp] theorem State.loadDatapath_keyIn (f : Variant → List Word → Datapath) : (s.loadDatapath f).keyIn = s.keyIn := rfl
@[simp] theorem State.loadDatapath_tweakIn (f : Variant → List Word → Datapath) : (s.loadDatapath f).tweakIn = s.tweakIn := rfl
@[simp] theorem State.loadDatapath_dataIn (f : Variant → List Word → Datapath) : (s.loadDatapath f).dataIn = s.dataIn := rfl
@[simp] theorem State.loadDatapath_dataOut (f : Variant → List Word → Datapath) : (s.loadDatapath f).dataOut = s.dataOut := rfl
@[simp] theorem State.loadDatapath_ks (f : Variant → List Word → Datapath) : (s.loadDatapath f).ks = s.ks := rfl
@[simp] theorem State.loadDatapath_latch (f : Variant → List Word → Datapath) : (s.loadDatapath f).latch = s.latch := rfl
@[simp] theorem State.loadDatapath_dp (f : Variant → List Word → Datapath) : (s.loadDatapath f).dp = f s.variant s.latch.data := rfl
@[simp] theorem State.loadDatapath_freeCount (f : Variant → List Word → Datapath) : (s.loadDatapath f).freeCount = s.freeCount := rfl
@[simp] theorem State.loadDatapath_inputs (f : Variant → List Word → Datapath) : (s.loadDatapath f).inputs = s.inputs := rfl
@[simp] theorem State.loadDatapath_response (f : Variant → List Word → Datapath) : (s.loadDatapath f).response = s.response := rfl

@[simp] theorem State.runDatapath_variant (f : Variant → List (List Word) → Datapath → Datapath) : (s.runDatapath f).variant = s.variant := rfl
@[simp] theorem State.runDatapath_pending (f : Variant → List (List Word) → Datapath → Datapath) : (s.runDatapath f).pending = s.pending := rfl
@[simp] theorem State.runDatapath_st (f : Variant → List (List Word) → Datapath → Datapath) : (s.runDatapath f).st = s.st := rfl
@[simp] theorem State.runDatapath_done (f : Variant → List (List Word) → Datapath → Datapath) : (s.runDatapath f).done = s.done := rfl
@[simp] theorem State.runDatapath_overrun (f : Variant → List (List Word) → Datapath → Datapath) : (s.runDatapath f).overrun = s.overrun := rfl
@[simp] theorem State.runDatapath_err (f : Variant → List (List Word) → Datapath → Datapath) : (s.runDatapath f).err = s.err := rfl
@[simp] theorem State.runDatapath_errInfo (f : Variant → List (List Word) → Datapath → Datapath) : (s.runDatapath f).errInfo = s.errInfo := rfl
@[simp] theorem State.runDatapath_keyIn (f : Variant → List (List Word) → Datapath → Datapath) : (s.runDatapath f).keyIn = s.keyIn := rfl
@[simp] theorem State.runDatapath_tweakIn (f : Variant → List (List Word) → Datapath → Datapath) : (s.runDatapath f).tweakIn = s.tweakIn := rfl
@[simp] theorem State.runDatapath_dataIn (f : Variant → List (List Word) → Datapath → Datapath) : (s.runDatapath f).dataIn = s.dataIn := rfl
@[simp] theorem State.runDatapath_dataOut (f : Variant → List (List Word) → Datapath → Datapath) : (s.runDatapath f).dataOut = s.dataOut := rfl
@[simp] theorem State.runDatapath_ks (f : Variant → List (List Word) → Datapath → Datapath) : (s.runDatapath f).ks = s.ks := rfl
@[simp] theorem State.runDatapath_latch (f : Variant → List (List Word) → Datapath → Datapath) : (s.runDatapath f).latch = s.latch := rfl
@[simp] theorem State.runDatapath_dp (f : Variant → List (List Word) → Datapath → Datapath) : (s.runDatapath f).dp = f s.variant s.ks s.dp := rfl
@[simp] theorem State.runDatapath_freeCount (f : Variant → List (List Word) → Datapath → Datapath) : (s.runDatapath f).freeCount = s.freeCount := rfl
@[simp] theorem State.runDatapath_inputs (f : Variant → List (List Word) → Datapath → Datapath) : (s.runDatapath f).inputs = s.inputs := rfl
@[simp] theorem State.runDatapath_response (f : Variant → List (List Word) → Datapath → Datapath) : (s.runDatapath f).response = s.response := rfl

@[simp] theorem State.storeResult_variant : (s.storeResult).variant = s.variant := rfl
@[simp] theorem State.storeResult_pending : (s.storeResult).pending = s.pending := rfl
@[simp] theorem State.storeResult_st : (s.storeResult).st = s.st := rfl
@[simp] theorem State.storeResult_done : (s.storeResult).done = s.done := rfl
@[simp] theorem State.storeResult_overrun : (s.storeResult).overrun = s.overrun := rfl
@[simp] theorem State.storeResult_err : (s.storeResult).err = s.err := rfl
@[simp] theorem State.storeResult_errInfo : (s.storeResult).errInfo = s.errInfo := rfl
@[simp] theorem State.storeResult_keyIn : (s.storeResult).keyIn = s.keyIn := rfl
@[simp] theorem State.storeResult_tweakIn : (s.storeResult).tweakIn = s.tweakIn := rfl
@[simp] theorem State.storeResult_dataIn : (s.storeResult).dataIn = s.dataIn := rfl
@[simp] theorem State.storeResult_dataOut : (s.storeResult).dataOut = writeBlock s.variant s.dataOut s.dp.v := rfl
@[simp] theorem State.storeResult_ks : (s.storeResult).ks = s.ks := rfl
@[simp] theorem State.storeResult_latch : (s.storeResult).latch = s.latch := rfl
@[simp] theorem State.storeResult_dp : (s.storeResult).dp = s.dp := rfl
@[simp] theorem State.storeResult_freeCount : (s.storeResult).freeCount = s.freeCount := rfl
@[simp] theorem State.storeResult_inputs : (s.storeResult).inputs = s.inputs := rfl
@[simp] theorem State.storeResult_response : (s.storeResult).response = s.response := rfl

@[simp] theorem State.writeKeyIn_variant (j : Fin 16) (w : Word) : (s.writeKeyIn j w).variant = s.variant := rfl
@[simp] theorem State.writeKeyIn_pending (j : Fin 16) (w : Word) : (s.writeKeyIn j w).pending = s.pending := rfl
@[simp] theorem State.writeKeyIn_st (j : Fin 16) (w : Word) : (s.writeKeyIn j w).st = s.st := rfl
@[simp] theorem State.writeKeyIn_done (j : Fin 16) (w : Word) : (s.writeKeyIn j w).done = s.done := rfl
@[simp] theorem State.writeKeyIn_overrun (j : Fin 16) (w : Word) : (s.writeKeyIn j w).overrun = s.overrun := rfl
@[simp] theorem State.writeKeyIn_err (j : Fin 16) (w : Word) : (s.writeKeyIn j w).err = s.err := rfl
@[simp] theorem State.writeKeyIn_errInfo (j : Fin 16) (w : Word) : (s.writeKeyIn j w).errInfo = s.errInfo := rfl
@[simp] theorem State.writeKeyIn_keyIn (j : Fin 16) (w : Word) : (s.writeKeyIn j w).keyIn = writeSlot s.variant s.keyIn j w := rfl
@[simp] theorem State.writeKeyIn_tweakIn (j : Fin 16) (w : Word) : (s.writeKeyIn j w).tweakIn = s.tweakIn := rfl
@[simp] theorem State.writeKeyIn_dataIn (j : Fin 16) (w : Word) : (s.writeKeyIn j w).dataIn = s.dataIn := rfl
@[simp] theorem State.writeKeyIn_dataOut (j : Fin 16) (w : Word) : (s.writeKeyIn j w).dataOut = s.dataOut := rfl
@[simp] theorem State.writeKeyIn_ks (j : Fin 16) (w : Word) : (s.writeKeyIn j w).ks = s.ks := rfl
@[simp] theorem State.writeKeyIn_latch (j : Fin 16) (w : Word) : (s.writeKeyIn j w).latch = s.latch := rfl
@[simp] theorem State.writeKeyIn_dp (j : Fin 16) (w : Word) : (s.writeKeyIn j w).dp = s.dp := rfl
@[simp] theorem State.writeKeyIn_freeCount (j : Fin 16) (w : Word) : (s.writeKeyIn j w).freeCount = s.freeCount := rfl
@[simp] theorem State.writeKeyIn_inputs (j : Fin 16) (w : Word) : (s.writeKeyIn j w).inputs = s.inputs := rfl
@[simp] theorem State.writeKeyIn_response (j : Fin 16) (w : Word) : (s.writeKeyIn j w).response = s.response := rfl

@[simp] theorem State.writeTweakIn_variant (j : Fin 2) (w : Word) : (s.writeTweakIn j w).variant = s.variant := rfl
@[simp] theorem State.writeTweakIn_pending (j : Fin 2) (w : Word) : (s.writeTweakIn j w).pending = s.pending := rfl
@[simp] theorem State.writeTweakIn_st (j : Fin 2) (w : Word) : (s.writeTweakIn j w).st = s.st := rfl
@[simp] theorem State.writeTweakIn_done (j : Fin 2) (w : Word) : (s.writeTweakIn j w).done = s.done := rfl
@[simp] theorem State.writeTweakIn_overrun (j : Fin 2) (w : Word) : (s.writeTweakIn j w).overrun = s.overrun := rfl
@[simp] theorem State.writeTweakIn_err (j : Fin 2) (w : Word) : (s.writeTweakIn j w).err = s.err := rfl
@[simp] theorem State.writeTweakIn_errInfo (j : Fin 2) (w : Word) : (s.writeTweakIn j w).errInfo = s.errInfo := rfl
@[simp] theorem State.writeTweakIn_keyIn (j : Fin 2) (w : Word) : (s.writeTweakIn j w).keyIn = s.keyIn := rfl
@[simp] theorem State.writeTweakIn_tweakIn (j : Fin 2) (w : Word) : (s.writeTweakIn j w).tweakIn = s.tweakIn.set j w := rfl
@[simp] theorem State.writeTweakIn_dataIn (j : Fin 2) (w : Word) : (s.writeTweakIn j w).dataIn = s.dataIn := rfl
@[simp] theorem State.writeTweakIn_dataOut (j : Fin 2) (w : Word) : (s.writeTweakIn j w).dataOut = s.dataOut := rfl
@[simp] theorem State.writeTweakIn_ks (j : Fin 2) (w : Word) : (s.writeTweakIn j w).ks = s.ks := rfl
@[simp] theorem State.writeTweakIn_latch (j : Fin 2) (w : Word) : (s.writeTweakIn j w).latch = s.latch := rfl
@[simp] theorem State.writeTweakIn_dp (j : Fin 2) (w : Word) : (s.writeTweakIn j w).dp = s.dp := rfl
@[simp] theorem State.writeTweakIn_freeCount (j : Fin 2) (w : Word) : (s.writeTweakIn j w).freeCount = s.freeCount := rfl
@[simp] theorem State.writeTweakIn_inputs (j : Fin 2) (w : Word) : (s.writeTweakIn j w).inputs = s.inputs := rfl
@[simp] theorem State.writeTweakIn_response (j : Fin 2) (w : Word) : (s.writeTweakIn j w).response = s.response := rfl

@[simp] theorem State.writeDataIn_variant (j : Fin 16) (w : Word) : (s.writeDataIn j w).variant = s.variant := rfl
@[simp] theorem State.writeDataIn_pending (j : Fin 16) (w : Word) : (s.writeDataIn j w).pending = s.pending := rfl
@[simp] theorem State.writeDataIn_st (j : Fin 16) (w : Word) : (s.writeDataIn j w).st = s.st := rfl
@[simp] theorem State.writeDataIn_done (j : Fin 16) (w : Word) : (s.writeDataIn j w).done = s.done := rfl
@[simp] theorem State.writeDataIn_overrun (j : Fin 16) (w : Word) : (s.writeDataIn j w).overrun = s.overrun := rfl
@[simp] theorem State.writeDataIn_err (j : Fin 16) (w : Word) : (s.writeDataIn j w).err = s.err := rfl
@[simp] theorem State.writeDataIn_errInfo (j : Fin 16) (w : Word) : (s.writeDataIn j w).errInfo = s.errInfo := rfl
@[simp] theorem State.writeDataIn_keyIn (j : Fin 16) (w : Word) : (s.writeDataIn j w).keyIn = s.keyIn := rfl
@[simp] theorem State.writeDataIn_tweakIn (j : Fin 16) (w : Word) : (s.writeDataIn j w).tweakIn = s.tweakIn := rfl
@[simp] theorem State.writeDataIn_dataIn (j : Fin 16) (w : Word) : (s.writeDataIn j w).dataIn = writeSlot s.variant s.dataIn j w := rfl
@[simp] theorem State.writeDataIn_dataOut (j : Fin 16) (w : Word) : (s.writeDataIn j w).dataOut = s.dataOut := rfl
@[simp] theorem State.writeDataIn_ks (j : Fin 16) (w : Word) : (s.writeDataIn j w).ks = s.ks := rfl
@[simp] theorem State.writeDataIn_latch (j : Fin 16) (w : Word) : (s.writeDataIn j w).latch = s.latch := rfl
@[simp] theorem State.writeDataIn_dp (j : Fin 16) (w : Word) : (s.writeDataIn j w).dp = s.dp := rfl
@[simp] theorem State.writeDataIn_freeCount (j : Fin 16) (w : Word) : (s.writeDataIn j w).freeCount = s.freeCount := rfl
@[simp] theorem State.writeDataIn_inputs (j : Fin 16) (w : Word) : (s.writeDataIn j w).inputs = s.inputs := rfl
@[simp] theorem State.writeDataIn_response (j : Fin 16) (w : Word) : (s.writeDataIn j w).response = s.response := rfl

end Sys2Proof.Machine
end

