-- ==== Sys2Proof/Laws/Step.lean ====
section
/-! SUPPORT. What each command, the engine's turn and one step can do, said once. -/

namespace Sys2Proof.Machine

/-- The state a successful ENCRYPT or DECRYPT leaves. -/
abbrev State.cryptDone (load : Variant → List Word → Datapath)
    (run : Variant → List (List Word) → Datapath → Datapath) (s : State) : State :=
  ((((s.loadDatapath load).runDatapath run).storeResult).releaseDatapath).complete .none

/-- The state a successful CONSTRUCT leaves. -/
abbrev State.constructDone (s : State) : State := s.installSchedule.releaseDatapath.complete .none

/-- The free V has NW words. -/
@[simp] theorem freeDatapath_length (v : Variant) (n : Nat) : (freeDatapath v n).v.length = v.nw := by
  simp [freeDatapath]

/-- The free D is below NR. -/
theorem freeDatapath_range (v : Variant) (n : Nat) : (freeDatapath v n).d < v.nr :=
  Nat.mod_lt _ (by cases v <;> decide)

/-- DO_CONSTRUCT has four outcomes, told apart by ST and the lengths. -/
theorem doConstruct_cases (la lb : BitVec 16) (s : State) :
    (s.st = .constructed ∧ doConstruct la lb s = s.complete .alreadyConstructed) ∨
    (s.st = .uninit ∧ la.toNat ≠ 8 * s.variant.nw ∧ doConstruct la lb s = s.complete .keySize) ∨
    (s.st = .uninit ∧ la.toNat = 8 * s.variant.nw ∧ lb.toNat ≠ 16 ∧
      doConstruct la lb s = s.complete .tweakSize) ∨
    (s.st = .uninit ∧ la.toNat = 8 * s.variant.nw ∧ lb.toNat = 16 ∧
      doConstruct la lb s = s.constructDone) := by
  unfold doConstruct keyLenOk tweakLenOk lenIs Variant.keyBytes Variant.tweakBytes State.constructDone
  cases hst : s.st <;> by_cases ha : la.toNat = 8 * s.variant.nw <;> by_cases hb : lb.toNat = 16 <;>
    simp [ha, hb]

/-- DO_CRYPT has three outcomes, told apart by ST and the lengths. -/
theorem doCrypt_cases (load : Variant → List Word → Datapath)
    (run : Variant → List (List Word) → Datapath → Datapath) (la lb : BitVec 16) (s : State) :
    (s.st = .uninit ∧ doCrypt load run la lb s = s.complete .notConstructed) ∨
    (s.st = .constructed ∧ (la.toNat ≠ 8 * s.variant.nw ∨ lb.toNat ≠ 8 * s.variant.nw) ∧
      doCrypt load run la lb s = s.complete .lengthViolation) ∨
    (s.st = .constructed ∧ la.toNat = 8 * s.variant.nw ∧ lb.toNat = 8 * s.variant.nw ∧
      doCrypt load run la lb s = s.cryptDone load run) := by
  unfold doCrypt blockLensOk lenIs Variant.blockBytes State.cryptDone
  cases hst : s.st <;> by_cases ha : la.toNat = 8 * s.variant.nw <;>
    by_cases hb : lb.toNat = 8 * s.variant.nw <;> simp [ha, hb]

/-- What the completion of the command in LATCH can be. -/
inductive Completion (s : State) : State → Prop where
  /-- An error: STATUS alone is written. -/
  | failed (e : CmdError) (ne : e ≠ .none)
      (uninit : e = .keySize ∨ e = .tweakSize ∨ e = .notConstructed → s.st = .uninit)
      (constructed : e = .alreadyConstructed ∨ e = .lengthViolation → s.st = .constructed) :
      Completion s (s.complete e)
  /-- A CONSTRUCT that succeeds. -/
  | constructed (la lb : BitVec 16) (dec : decode s.latch.cmd = .ok (.construct la lb))
      (st : s.st = .uninit) (lenA : la.toNat = 8 * s.variant.nw) (lenB : lb.toNat = 16) :
      Completion s (s.constructDone)
  /-- An ENCRYPT that succeeds. -/
  | encrypted (la lb : BitVec 16) (dec : decode s.latch.cmd = .ok (.encrypt la lb))
      (st : s.st = .constructed) (lenA : la.toNat = 8 * s.variant.nw)
      (lenB : lb.toNat = 8 * s.variant.nw) :
      Completion s (s.cryptDone Datapath.encryptLoad (fun v ks p => p.encryptRun v ks))
  /-- A DECRYPT that succeeds. -/
  | decrypted (la lb : BitVec 16) (dec : decode s.latch.cmd = .ok (.decrypt la lb))
      (st : s.st = .constructed) (lenA : la.toNat = 8 * s.variant.nw)
      (lenB : lb.toNat = 8 * s.variant.nw) :
      Completion s (s.cryptDone Datapath.decryptLoad (fun v ks p => p.decryptRun v ks))

/-- The engine's turn with a command in flight is one completion. -/
theorem engineStep_pending (s : State) (hp : s.pending = true) :
    ∃ t, engineStep s = .next t ∧ Completion s t := by
  unfold engineStep State.commandWord
  rw [if_pos hp]
  cases hd : decode s.latch.cmd with
  | error r =>
    exact ⟨_, rfl, .failed .illegalCmd (by decide) (by simp) (by simp)⟩
  | ok i =>
    cases i with
    | construct la lb =>
      refine ⟨_, rfl, ?_⟩
      rcases doConstruct_cases la lb s with ⟨h, e⟩ | ⟨h, _, e⟩ | ⟨h, _, _, e⟩ | ⟨h, ha, hb, e⟩ <;>
        rw [e]
      · exact .failed _ (by decide) (by simp) (fun _ => h)
      · exact .failed _ (by decide) (fun _ => h) (by simp)
      · exact .failed _ (by decide) (fun _ => h) (by simp)
      · exact .constructed la lb hd h ha hb
    | encrypt la lb =>
      refine ⟨_, rfl, ?_⟩
      rcases doCrypt_cases Datapath.encryptLoad (fun v ks p => p.encryptRun v ks) la lb s with
        ⟨h, e⟩ | ⟨h, _, e⟩ | ⟨h, ha, hb, e⟩ <;> rw [e]
      · exact .failed _ (by decide) (fun _ => h) (by simp)
      · exact .failed _ (by decide) (by simp) (fun _ => h)
      · exact .encrypted la lb hd h ha hb
    | decrypt la lb =>
      refine ⟨_, rfl, ?_⟩
      rcases doCrypt_cases Datapath.decryptLoad (fun v ks p => p.decryptRun v ks) la lb s with
        ⟨h, e⟩ | ⟨h, _, e⟩ | ⟨h, ha, hb, e⟩ <;> rw [e]
      · exact .failed _ (by decide) (fun _ => h) (by simp)
      · exact .failed _ (by decide) (by simp) (fun _ => h)
      · exact .decrypted la lb hd h ha hb

/-- The engine's turn with nothing in flight leaves the state as it is. -/
theorem engineStep_idle (s : State) (hp : s.pending = false) : engineStep s = .next s := by
  simp [engineStep, hp]

/-- Every step, by what comes next. -/
theorem step_cases {s t : State} (h : step s = .next t) :
    (s.inputs = [] ∧ engineStep s = .next t) ∨
    (∃ rest, s.inputs = .engine :: rest ∧ engineStep { s with inputs := rest } = .next t) ∨
    (∃ rest, s.inputs = .reset :: rest ∧ t = State.resetEvent { s with inputs := rest }) ∨
    (∃ a rest, s.inputs = .access a :: rest ∧ t = State.busAccess a { s with inputs := rest }) := by
  unfold step at h
  cases hi : s.inputs with
  | nil => rw [hi] at h; exact .inl ⟨rfl, h⟩
  | cons e rest =>
    rw [hi] at h
    cases e with
    | access a =>
      refine .inr (.inr (.inr ⟨a, rest, rfl, ?_⟩))
      simpa [handleEvent] using h.symm
    | engine => exact .inr (.inl ⟨rest, rfl, h⟩)
    | reset =>
      refine .inr (.inr (.inl ⟨rest, rfl, ?_⟩))
      simpa [handleEvent] using h.symm

/-- When the engine moves next, the step is its turn with that turn taken off the events. -/
theorem step_of_engineMoves {s : State} (h : s.engineMoves) :
    step s = engineStep { s with inputs := s.inputs.tail } := by
  cases hi : s.inputs with
  | nil =>
    cases s
    simp only at hi
    subst hi
    rfl
  | cons ev rest =>
    have hev : ev = .engine := by
      rcases h with h | h <;> rw [hi] at h <;> simp at h
      exact h
    subst hev
    simp [step, hi, handleEvent]

/-- An access that the window accepts as a read changes the port's answer only. -/
theorem busAccess_read (s : State) (a : BusAccess) (ha : accepts a = true) (hk : a.kind = .read) :
    s.busAccess a = { s with response := some (.data (s.memRead (windowOffset a.addr))) } := by
  simp [State.busAccess, ha, hk]

/-- An access that the window accepts as a write. -/
theorem busAccess_write (s : State) (a : BusAccess) (w : Word) (ha : accepts a = true)
    (hk : a.kind = .write w) :
    s.busAccess a = { s.memWrite (windowOffset a.addr) w with response := some .ok } := by
  simp [State.busAccess, ha, hk]

/-- A refused access changes the port's answer only. -/
theorem busAccess_refused (s : State) (a : BusAccess) (ha : accepts a = false) :
    s.busAccess a = { s with response := some .busError } := by
  simp [State.busAccess, ha]

end Sys2Proof.Machine
end

