-- ==== Sys2Proof/Laws/Window.lean ====
section
/-! SUPPORT. The window: the map at each offset, what a write can change, and the register files slot
by slot. -/

namespace Sys2Proof.Machine

@[simp] theorem regAt_id : regAt 0x000 = .id := by decide
@[simp] theorem regAt_blockSize : regAt 0x008 = .blockSize := by decide
@[simp] theorem regAt_status : regAt 0x010 = .status := by decide
@[simp] theorem regAt_cmd : regAt 0x018 = .cmd := by decide

/-- The map has KEY_IN[j] at its offset. -/
theorem regAt_keyIn (j : Fin 16) : regAt (0x100 + 8 * j.val) = .keyIn j := by
  revert j; decide

/-- The map has TWEAK_IN[j] at its offset. -/
theorem regAt_tweakIn (j : Fin 2) : regAt (0x180 + 8 * j.val) = .tweakIn j := by
  revert j; decide

/-- The map has DATA_IN[j] at its offset. -/
theorem regAt_dataIn (j : Fin 16) : regAt (0x200 + 8 * j.val) = .dataIn j := by
  revert j; decide

/-- The map has DATA_OUT[j] at its offset. -/
theorem regAt_dataOut (j : Fin 16) : regAt (0x280 + 8 * j.val) = .dataOut j := by
  revert j; decide

/-- The map and the offsets agree at every 8-byte-aligned offset that has a register. -/
theorem regAt_offset (off : Nat) (h8 : off % 8 = 0) (hr : regAt off ≠ .reserved) :
    (regAt off).offset = off := by
  unfold regAt at *
  split at hr <;> rename_i h0
  · simp [h0, Reg.offset]
  split at hr <;> rename_i h1
  · simp [h1, Reg.offset]
  split at hr <;> rename_i h2
  · simp [h2, Reg.offset]
  split at hr <;> rename_i h3
  · simp [h3, Reg.offset]
  simp only [h0, h1, h2, h3, if_false]
  split at hr <;> rename_i h4
  · simp only [h4, and_self, dite_true, Reg.offset]; omega
  split at hr <;> rename_i h5
  · simp only [h4, h5, and_self, dite_true, dite_false, Reg.offset]; omega
  split at hr <;> rename_i h6
  · simp only [h4, h5, h6, and_self, dite_true, dite_false, Reg.offset]; omega
  split at hr <;> rename_i h7
  · simp only [h4, h5, h6, h7, and_self, dite_true, dite_false, Reg.offset]; omega
  exact absurd rfl hr

/-- What a write of a register can be: nothing, a clearing of OVERRUN, a CMD request, or the write of
one slot of an input file. -/
theorem writeReg_cases (s : State) (w : Word) (r : Reg) :
    s.writeReg w r = s ∨
    (r = .status ∧ w.getLsbD 3 = true ∧ s.writeReg w r = { s with overrun := false }) ∨
    (r = .cmd ∧ s.writeReg w r = s.commandRequest w) ∨
    (∃ j, r = .keyIn j ∧ j.val < s.variant.nw ∧
      s.writeReg w r = { s with keyIn := s.keyIn.set j w }) ∨
    (∃ j, r = .tweakIn j ∧ s.writeReg w r = { s with tweakIn := s.tweakIn.set j w }) ∨
    (∃ j, r = .dataIn j ∧ j.val < s.variant.nw ∧
      s.writeReg w r = { s with dataIn := s.dataIn.set j w }) := by
  cases r with
  | status =>
    cases hw : w.getLsbD 3 <;> simp only [State.writeReg, State.writeStatus, hw] <;> simp
  | cmd => simp [State.writeReg]
  | keyIn j =>
    by_cases hj : j.val < s.variant.nw <;>
      simp [State.writeReg, State.writeKeyIn, writeSlot, hj]
  | tweakIn j => simp [State.writeReg, State.writeTweakIn]
  | dataIn j =>
    by_cases hj : j.val < s.variant.nw <;>
      simp [State.writeReg, State.writeDataIn, writeSlot, hj]
  | id | blockSize | dataOut j | reserved => simp [State.writeReg]

/-- A CMD request to a busy engine sets OVERRUN. -/
theorem commandRequest_busy (s : State) (w : Word) (h : s.pending = true) :
    s.commandRequest w = { s with overrun := true } := by simp [State.commandRequest, h]

/-- A CMD request to an idle engine issues. -/
theorem commandRequest_idle (s : State) (w : Word) (h : s.pending = false) :
    s.commandRequest w = s.issue w := by simp [State.commandRequest, h]

/-- An accepted access is eight bytes wide at a multiple of 8. -/
theorem accepts_iff (a : BusAccess) :
    accepts a = true ↔ a.width = .bytes 8 ∧ a.addr % 8 = 0 := by
  have : windowOffset a.addr % 8 = a.addr % 8 := by unfold windowOffset; omega
  simp [accepts, this]

/-- What one access can do besides answering: nothing, a clearing of OVERRUN, a CMD request, or the
write of one slot of an input file at its own offset. -/
theorem busAccess_cases (s : State) (a : BusAccess) :
    ∃ r, s.busAccess a = { s with response := r } ∨
      ∃ w, a.width = .bytes 8 ∧ a.kind = .write w ∧
        ((a.addr % 4096 = 0x010 ∧ w.getLsbD 3 = true ∧
          s.busAccess a = { s with overrun := false, response := r }) ∨
        (a.addr % 4096 = 0x018 ∧ s.busAccess a = { s.commandRequest w with response := r }) ∨
        (∃ j : Fin 16, a.addr % 4096 = 0x100 + 8 * j.val ∧ j.val < s.variant.nw ∧
          s.busAccess a = { s with keyIn := s.keyIn.set j w, response := r }) ∨
        (∃ j : Fin 2, a.addr % 4096 = 0x180 + 8 * j.val ∧
          s.busAccess a = { s with tweakIn := s.tweakIn.set j w, response := r }) ∨
        (∃ j : Fin 16, a.addr % 4096 = 0x200 + 8 * j.val ∧ j.val < s.variant.nw ∧
          s.busAccess a = { s with dataIn := s.dataIn.set j w, response := r })) := by
  cases ha : accepts a with
  | false => exact ⟨_, .inl (busAccess_refused s a ha)⟩
  | true =>
    have h8 := (accepts_iff a).mp ha
    have hm : windowOffset a.addr % 8 = 0 := by unfold windowOffset; omega
    cases hk : a.kind with
    | read => exact ⟨_, .inl (busAccess_read s a ha hk)⟩
    | write w =>
      refine ⟨some .ok, ?_⟩
      rw [busAccess_write s a w ha hk]
      have off : ∀ r, regAt (windowOffset a.addr) = r → r ≠ .reserved →
          a.addr % 4096 = r.offset := by
        rintro r rfl hr
        exact (regAt_offset _ hm hr).symm
      rcases writeReg_cases s w (regAt (windowOffset a.addr)) with
        e | ⟨hr, hw, e⟩ | ⟨hr, e⟩ | ⟨j, hr, hj, e⟩ | ⟨j, hr, e⟩ | ⟨j, hr, hj, e⟩ <;>
        rw [State.memWrite, e]
      · exact .inl rfl
      · exact .inr ⟨w, h8.1, rfl, .inl ⟨off _ hr (by simp), hw, rfl⟩⟩
      · exact .inr ⟨w, h8.1, rfl, .inr (.inl ⟨off _ hr (by simp), rfl⟩)⟩
      · exact .inr ⟨w, h8.1, rfl, .inr (.inr (.inl ⟨j, off _ hr (by simp), hj, rfl⟩))⟩
      · exact .inr ⟨w, h8.1, rfl, .inr (.inr (.inr (.inl ⟨j, off _ hr (by simp), rfl⟩)))⟩
      · exact .inr ⟨w, h8.1, rfl, .inr (.inr (.inr (.inr ⟨j, off _ hr (by simp), hj, rfl⟩)))⟩

/-- A block written into a file, slot by slot. -/
@[simp] theorem writeBlock_get (v : Variant) (f : Vector Word 16) (block : List Word) (j : Nat)
    (h : j < 16) : (writeBlock v f block)[j] = if j < v.nw then block.getD j 0#64 else f[j] := by
  simp [writeBlock]

/-- The words a command takes from a file are NW. -/
theorem usedWords_length (v : Variant) (f : Vector Word 16) : (usedWords v f).length = v.nw := by
  cases v <;> simp [usedWords, Variant.nw]

/-- The words a command takes from a file, slot by slot. -/
theorem usedWords_get (v : Variant) (f : Vector Word 16) (j : Fin 16) (hj : j.val < v.nw) :
    (usedWords v f).getD j.val 0#64 = f[j] := by
  simp [usedWords, hj]

/-- No variant has more words than a file has slots. -/
theorem nw_le (v : Variant) : v.nw ≤ 16 := by cases v <;> decide

/-- The window's bytes from 0x100 are those of KEY_IN (R66). -/
theorem windowByte_keyIn (s : State) (j : Fin 16) (b : Nat) (hb : b < 8)
    (hj : j.val < s.variant.nw) :
    s.windowByte (0x100 + (8 * j.val + b)) = byteLane s.keyIn[j] b := by
  unfold State.windowByte
  rw [show (0x100 + (8 * j.val + b)) / 8 * 8 = 0x100 + 8 * j.val by omega, regAt_keyIn,
    show (0x100 + (8 * j.val + b)) % 8 = b by omega]
  simp [State.regWord, readSlot, hj]

/-- The window's bytes from 0x200 are those of DATA_IN (R66). -/
theorem windowByte_dataIn (s : State) (j : Fin 16) (b : Nat) (hb : b < 8)
    (hj : j.val < s.variant.nw) :
    s.windowByte (0x200 + (8 * j.val + b)) = byteLane s.dataIn[j] b := by
  unfold State.windowByte
  rw [show (0x200 + (8 * j.val + b)) / 8 * 8 = 0x200 + 8 * j.val by omega, regAt_dataIn,
    show (0x200 + (8 * j.val + b)) % 8 = b by omega]
  simp [State.regWord, State.readReg, readSlot, hj]

/-- The window's bytes from 0x280 are those of DATA_OUT (R66). -/
theorem windowByte_dataOut (s : State) (j : Fin 16) (b : Nat) (hb : b < 8)
    (hj : j.val < s.variant.nw) :
    s.windowByte (0x280 + (8 * j.val + b)) = byteLane s.dataOut[j] b := by
  unfold State.windowByte
  rw [show (0x280 + (8 * j.val + b)) / 8 * 8 = 0x280 + 8 * j.val by omega, regAt_dataOut,
    show (0x280 + (8 * j.val + b)) % 8 = b by omega]
  simp [State.regWord, State.readReg, readSlot, hj]

/-- The window's bytes from 0x180 are those of TWEAK_IN (R66). -/
theorem windowByte_tweakIn (s : State) (j : Fin 2) (b : Nat) (hb : b < 8) :
    s.windowByte (0x180 + (8 * j.val + b)) = byteLane s.tweakIn[j] b := by
  unfold State.windowByte
  rw [show (0x180 + (8 * j.val + b)) / 8 * 8 = 0x180 + 8 * j.val by omega, regAt_tweakIn,
    show (0x180 + (8 * j.val + b)) % 8 = b by omega]
  simp [State.regWord]

end Sys2Proof.Machine
end

