-- ==== Sys2Proof/Laws/HostProgram.lean ====
section
/-! SUPPORT. What one line of a host program does: a write or read of a register, and a run of lines
one by one; and words and bytes of a sequence, taken from each other. -/

namespace Sys2Proof.Machine

/-- The map has each register at its offset. -/
@[simp] theorem regAt_of_offset (r : Reg) : regAt r.offset = r := by
  cases r with
  | keyIn j => exact regAt_keyIn j
  | tweakIn j => exact regAt_tweakIn j
  | dataIn j => exact regAt_dataIn j
  | dataOut j => exact regAt_dataOut j
  | _ => decide

/-- A register's offset is aligned and inside the window. -/
theorem Reg.offset_range (r : Reg) : r.offset % 8 = 0 ∧ r.offset < 4096 := by
  constructor <;> cases r <;> simp [Reg.offset] <;> omega

/-- The host address of a register decodes to its offset, whatever BASE is. -/
@[simp] theorem windowOffset_of_reg (r : Reg) : windowOffset (Config.base + r.offset) = r.offset := by
  have := r.offset_range.2
  unfold windowOffset Config.base
  omega

/-- The window accepts an access of a host-program line. -/
theorem accepts_of_reg (r : Reg) (k : AccessKind) :
    accepts ⟨Config.base + r.offset, .bytes 8, k⟩ = true := by
  simp [accepts, r.offset_range.1]

/-- `WR` writes its register. -/
theorem step_wr {s : State} {r : Reg} {w : Word} {rest : List Event} (h : s.inputs = wr r w :: rest) :
    step s = .next { State.writeReg { s with inputs := rest } w r with response := some .ok } := by
  simp [step, h, wr, handleEvent, busAccess_write _ _ w (accepts_of_reg r _) rfl, State.memWrite]

/-- `RD` answers with its register. -/
theorem step_rd {s : State} {r : Reg} {rest : List Event} (h : s.inputs = rd r :: rest) :
    step s = .next { s with inputs := rest, response := some (.data (s.readReg r)) } := by
  simp only [step, h, rd, handleEvent]
  rw [busAccess_read _ _ (accepts_of_reg r _) rfl]
  simp only [State.memRead, windowOffset_of_reg, regAt_of_offset]
  cases r <;> rfl

/-- A run whose first step is known goes on from there. -/
theorem run_succ {s t : State} (k : Nat) (h : step s = .next t) :
    core.run (k + 1) s = core.run k t := by
  have h' : core.step s = .next t := h
  simp only [Host.Core.run, h']

/-- A read of a register as an event changes the port's answer only. -/
theorem handleEvent_rd (s : State) (r : Reg) :
    handleEvent (rd r) s = .next { s with response := some (.data (s.readReg r)) } := by
  simp only [rd, handleEvent]
  rw [busAccess_read _ _ (accepts_of_reg r _) rfl]
  simp only [State.memRead, windowOffset_of_reg, regAt_of_offset]

/-- POLL is one repeated line, the read of STATUS. -/
@[simp] theorem poll_lines (v : Variant) : HostOp.poll.lines v = [⟨rd .status, true⟩] := rfl

/-- POLL's test on the STATUS word of a state. -/
@[simp] theorem pollEnds_statusWord (s : State) :
    pollEnds s.statusWord = (!s.pending && s.done) := by
  have h0 : s.statusWord.getLsbD 0 = s.pending := by
    simp only [State.statusWord, packStatus, BitVec.getLsbD_append]
    simp [State.busy]
  have h2 : s.statusWord.getLsbD 2 = s.done := by
    simp only [State.statusWord, packStatus, BitVec.getLsbD_append]
    simp
  rw [pollEnds, h0, h2]

/-- The host's turn at a POLL: one read of STATUS, and the POLL is left when no command is in flight
and one has completed. -/
theorem turn_poll (r : HostRun) (rest : List HostLine) (h : r.lines = ⟨rd .status, true⟩ :: rest) :
    r.turn .host = .next ⟨{ r.machine with response := some (.data r.machine.statusWord) },
      if !r.machine.pending && r.machine.done then rest else r.lines⟩ := by
  simp only [HostRun.turn, h, handleEvent_rd, HostRun.goOn, HostLine.next, State.answerEndsPoll,
    State.readReg, pollEnds_statusWord]
  cases r.machine.pending <;> cases r.machine.done <;> rfl

/-- The first of a list of turns taken. -/
theorem hostRun_cons {r t : HostRun} {e : Turn} (es : List Turn) (h : r.turn e = .next t) :
    r.run (e :: es) = t.run es := by
  rw [HostRun.run, h]

@[simp] theorem leWords_length (bs : List Byte) (n : Nat) : (leWords bs n).length = n := by
  simp [leWords]

/-- Word `j` of LEWORDS. -/
theorem leWords_getD (bs : List Byte) (n j : Nat) (h : j < n) :
    (leWords bs n).getD j 0#64 = leWord bs j := by
  simp [leWords, h]

/-- Byte `b` of word `j` of a byte sequence is its byte `8j + b`. -/
theorem byteLane_leWord (bs : List Byte) (j b : Nat) (h : b < 8) :
    byteLane (leWord bs j) b = bs.getD (8 * j + b) 0#8 := by
  apply BitVec.eq_of_toNat_eq
  simp only [byteLane, leWord, le64, BitVec.extractLsb'_toNat, toNat_append_add,
    Nat.shiftRight_eq_div_pow]
  have h0 := (bs.getD (8 * j + 0) 0#8).isLt
  have h1 := (bs.getD (8 * j + 1) 0#8).isLt
  have h2 := (bs.getD (8 * j + 2) 0#8).isLt
  have h3 := (bs.getD (8 * j + 3) 0#8).isLt
  have h4 := (bs.getD (8 * j + 4) 0#8).isLt
  have h5 := (bs.getD (8 * j + 5) 0#8).isLt
  have h6 := (bs.getD (8 * j + 6) 0#8).isLt
  have h7 := (bs.getD (8 * j + 7) 0#8).isLt
  interval_cases b <;> omega

/-- Byte `8j + b` of LEBYTES is byte lane `b` of word `j`. -/
theorem leBytes_getD (ws : List Word) (j b : Nat) (hj : j < ws.length) (hb : b < 8) :
    (leBytes ws).getD (8 * j + b) 0#8 = byteLane (ws.getD j 0#64) b := by
  induction ws generalizing j with
  | nil => simp at hj
  | cons w ws ih =>
    have hl : (wordBytes w).length = 8 := by simp [wordBytes]
    rw [leBytes, List.flatMap_cons]
    cases j with
    | zero =>
      rw [List.getD_append _ _ _ _ (by omega)]
      simp [wordBytes, hb]
    | succ j =>
      rw [List.getD_append_right _ _ _ _ (by omega), hl,
        show 8 * (j + 1) + b - 8 = 8 * j + b by omega]
      exact ih j (by simpa using hj)

/-- LEBYTES gives eight bytes for each word. -/
@[simp] theorem leBytes_length (ws : List Word) : (leBytes ws).length = 8 * ws.length := by
  induction ws with
  | nil => rfl
  | cons w ws ih =>
    simp only [leBytes, List.flatMap_cons, List.length_append, List.length_cons] at ih ⊢
    rw [ih]
    simp [wordBytes]
    omega

end Sys2Proof.Machine
end

