-- ==== Sys2Proof/Laws/PerInstr.lean ====
section
/-! SUPPORT. Facts about every command as syntax, one lemma for each constructor. -/

namespace Sys2Proof.Laws.EncodedFields

/-- The encoded word of a command holds its OP and its two lengths, and its reserved fields are 0
(R91, R92). -/
def Statement (i : Instr) : Prop :=
  fieldOp (encode i) = i.op ∧ fieldLenA (encode i) = i.lenA ∧ fieldLenB (encode i) = i.lenB ∧
    fieldRsv0 (encode i) = 0#4 ∧ fieldRsv1 (encode i) = 0#24

theorem construct (lenA lenB : BitVec 16) : Statement (.construct lenA lenB) := by
  simp [Statement, encode]

theorem encrypt (lenA lenB : BitVec 16) : Statement (.encrypt lenA lenB) := by
  simp [Statement, encode]

theorem decrypt (lenA lenB : BitVec 16) : Statement (.decrypt lenA lenB) := by
  simp [Statement, encode]

end Sys2Proof.Laws.EncodedFields
end

