-- ==== Sys2Proof/Laws/RoundEngine.lean ====
section
/-! SUPPORT. Lengths of the Round Engine's blocks, its rotations as the library's, and its loops
unrolled at the end. -/

namespace Sys2Proof.Machine

/-- The rotation of R13 is the library's. -/
theorem rotl_eq_rotateLeft (x : Word) (r : Nat) : rotl x r = x.rotateLeft r := by
  unfold rotl
  by_cases h : r % 64 = 0
  · rw [if_pos h]
    ext i hi
    simp [BitVec.rotateLeft, BitVec.rotateLeftAux, h]
  · rw [if_neg h]
    simp [BitVec.rotateLeft, BitVec.rotateLeftAux]

@[simp] theorem reorder_length (table : List Nat) (f : List Word) :
    (reorder table f).length = table.length := by simp [reorder]

@[simp] theorem permute_length (v : Variant) (f : List Word) : (permute v f).length = v.nw := by
  cases v <;> simp [permute, permTable, Variant.nw]

@[simp] theorem unpermute_length (v : Variant) (f : List Word) :
    (unpermute v f).length = v.nw := by
  cases v <;> simp [unpermute, permInvTable, Variant.nw]

@[simp] theorem inject_length (ks : List (List Word)) (s : Nat) (x : List Word) :
    (inject ks s x).length = x.length := by simp [inject]

@[simp] theorem eject_length (ks : List (List Word)) (s : Nat) (x : List Word) :
    (eject ks s x).length = x.length := by simp [eject]

@[simp] theorem injectBefore_length (ks : List (List Word)) (d : Nat) (x : List Word) :
    (injectBefore ks d x).length = x.length := by
  unfold injectBefore; split <;> simp

@[simp] theorem ejectAfter_length (ks : List (List Word)) (d : Nat) (x : List Word) :
    (ejectAfter ks d x).length = x.length := by
  unfold ejectAfter; split <;> simp

@[simp] theorem roundStep_length (v : Variant) (d : Nat) (x : List Word) :
    (roundStep v d x).length = v.nw := by simp [roundStep]

/-- A row of the rotation table has one constant for each pair. -/
theorem rotRow_length (v : Variant) (d : Nat) : (rotRow v d).length = v.nw / 2 := by
  have h : d % 8 < 8 := Nat.mod_lt _ (by decide)
  unfold rotRow
  generalize d % 8 = r at h
  revert r
  cases v <;> decide

/-- Each row's pairs cover a block of twice its length. -/
theorem mapPairs_length (f : Word → Word → Nat → Word × Word) :
    ∀ (rs : List Nat) (x : List Word), x.length = 2 * rs.length →
      (mapPairs f rs x).length = x.length
  | [], [], _ => rfl
  | [], _ :: _, h => by simp at h
  | _ :: _, [], h => by simp at h
  | _ :: _, [_], h => by simp at h; omega
  | _ :: rs, _ :: _ :: ws, h => by
    have := mapPairs_length f rs ws (by simp at h; omega)
    simp [mapPairs, this]

/-- The last of `n + 1` encryption passes taken off the end. -/
theorem encRounds_succ (v : Variant) (ks : List (List Word)) (n : Nat) (p : Datapath) :
    Datapath.encRounds v ks (n + 1) p = (Datapath.encRounds v ks n p).encRound v ks := by
  induction n generalizing p with
  | zero => rfl
  | succ n ih => rw [Datapath.encRounds, ih]; rfl

/-- The last of `n + 1` decryption passes taken off the end. -/
theorem decRounds_succ (v : Variant) (ks : List (List Word)) (n : Nat) (p : Datapath) :
    Datapath.decRounds v ks (n + 1) p = (Datapath.decRounds v ks n p).decRound v ks := by
  induction n generalizing p with
  | zero => rfl
  | succ n ih => rw [Datapath.decRounds, ih]; rfl

/-- D counts the encryption passes up. -/
theorem encRounds_d (v : Variant) (ks : List (List Word)) (n : Nat) (p : Datapath) :
    (Datapath.encRounds v ks n p).d = p.d + n := by
  induction n with
  | zero => rfl
  | succ n ih => rw [encRounds_succ]; simp only [Datapath.encRound]; omega

/-- D counts the decryption passes down. -/
theorem decRounds_d (v : Variant) (ks : List (List Word)) (n : Nat) (p : Datapath) :
    (Datapath.decRounds v ks n p).d = p.d - n := by
  induction n with
  | zero => rfl
  | succ n ih => rw [decRounds_succ]; simp only [Datapath.decRound]; omega

/-- SCHEDULE gives NS groups. -/
@[simp] theorem schedule_length (v : Variant) (k : List Word) (t : Vector Word 2) :
    (schedule v k t).length = v.ns := by simp [schedule]

/-- Each group of SCHEDULE has NW words. -/
theorem schedule_group_length (v : Variant) (k : List Word) (t : Vector Word 2) :
    ∀ g ∈ schedule v k t, g.length = v.nw := by
  intro g hg
  simp only [schedule, List.mem_map] at hg
  obtain ⟨s, _, rfl⟩ := hg
  simp [subkeyGroup]

end Sys2Proof.Machine
end

