-- ==== Sys2Proof/Tests/Slice0.lean ====
section
/-! SUPPORT. The model's own tests. Expected values come from the spec's tables and vectors, named in
each comment; the witnesses show that the hypotheses of the statements can be met. -/

namespace Sys2Proof.Tests

open Sys2Proof Sys2Proof.Machine

/-! ### Helpers -/

/-- The next state of a step, if it has one. -/
def after (o : Host.Outcome State Fault Refusal) : Option State :=
  match o with
  | .next t => some t
  | .fault _ => none
  | .refused _ => none

/-- A fresh engine with the command word issued and the engine to move. -/
def fresh (v : Variant) (w : Word) : State := (State.resetOf v).withFetchWord 64 w.toNat

/-- An engine constructed with the given key and tweak. -/
def built (v : Variant) (k : List Word) (t : Vector Word 2) : State :=
  { State.resetOf v with st := .constructed, ks := schedule v k t }

/-- A constructed engine with zero key and tweak, the word issued and the engine to move. -/
def ready (v : Variant) (w : Word) : State :=
  (built v (List.replicate v.nw 0#64) (Vector.replicate 2 0#64)).withFetchWord 64 w.toNat

/-- A state with one event to come. -/
def withEvent (e : Event) (s : State) : State := { s with inputs := [e] }

/-- The words 0x..10 upwards in bytes: the key N of the vectors. -/
def keyN : Variant → List Word := fun v =>
  [0x1716151413121110#64, 0x1F1E1D1C1B1A1918#64, 0x2726252423222120#64, 0x2F2E2D2C2B2A2928#64,
   0x3736353433323130#64, 0x3F3E3D3C3B3A3938#64, 0x4746454443424140#64, 0x4F4E4D4C4B4A4948#64,
   0x5756555453525150#64, 0x5F5E5D5C5B5A5958#64, 0x6766656463626160#64, 0x6F6E6D6C6B6A6968#64,
   0x7776757473727170#64, 0x7F7E7D7C7B7A7978#64, 0x8786858483828180#64,
   0x8F8E8D8C8B8A8988#64].take v.nw

/-- The tweak N of the vectors. -/
def tweakN : Vector Word 2 := #v[0x0706050403020100#64, 0x0F0E0D0C0B0A0908#64]

/-- The plaintext N of the vectors. -/
def plainN : Variant → List Word := fun v =>
  [0xF8F9FAFBFCFDFEFF#64, 0xF0F1F2F3F4F5F6F7#64, 0xE8E9EAEBECEDEEEF#64, 0xE0E1E2E3E4E5E6E7#64,
   0xD8D9DADBDCDDDEDF#64, 0xD0D1D2D3D4D5D6D7#64, 0xC8C9CACBCCCDCECF#64, 0xC0C1C2C3C4C5C6C7#64,
   0xB8B9BABBBCBDBEBF#64, 0xB0B1B2B3B4B5B6B7#64, 0xA8A9AAABACADAEAF#64, 0xA0A1A2A3A4A5A6A7#64,
   0x98999A9B9C9D9E9F#64, 0x9091929394959697#64, 0x88898A8B8C8D8E8F#64,
   0x8081828384858687#64].take v.nw

/-- A file holding a block in its first slots. -/
def fileOf (ws : List Word) : Vector Word 16 := Vector.ofFn fun j : Fin 16 => ws.getD j.val 0#64

/-! ### WellFormed refuses each wrong length (R94, R98) -/

theorem test_wf_refuses_key_length : (Instr.construct 31#16 16#16).wf .v256 = false := by decide
theorem test_wf_refuses_tweak_length : (Instr.construct 32#16 8#16).wf .v256 = false := by decide
theorem test_wf_refuses_source_length : (Instr.encrypt 16#16 32#16).wf .v256 = false := by decide
theorem test_wf_refuses_destination_length :
    (Instr.encrypt 32#16 64#16).wf .v256 = false := by decide
theorem test_wf_refuses_decrypt_lengths :
    (Instr.decrypt 32#16 64#16).wf .v512 = false ∧ (Instr.decrypt 64#16 32#16).wf .v512 = false := by
  decide

/-! ### Decoding, words written out from R91 -/

/-- RSV1 = 0, LEN_B = 16 at bit 24, LEN_A = 32 at bit 8, OP = 1. -/
theorem test_decode_construct :
    decode 0b0000000000000000000000000000000000010000000000000010000000000001#64 =
      .ok (.construct 32#16 16#16) := by decide
theorem test_decode_encrypt :
    decode 0b0000000000000000000000000000000000100000000000000010000000000010#64 =
      .ok (.encrypt 32#16 32#16) := by decide
/-- V-DEC-12. -/
theorem test_decode_decrypt :
    decode 0x000000FFFFFFFF03#64 = .ok (.decrypt 0xFFFF#16 0xFFFF#16) := by decide
/-- V-DEC-4 to V-DEC-9. -/
theorem test_decode_illegal :
    decode 0x0000000000000000#64 = .error .reservedOp ∧
    decode 0x0000000020002004#64 = .error .reservedOp ∧
    decode 0x000000002000200F#64 = .error .reservedOp ∧
    decode 0x0000000010002011#64 = .error .reservedBits ∧
    decode 0x0000010010002001#64 = .error .reservedBits ∧
    decode 0x8000000020002002#64 = .error .reservedBits := by decide

/-! ### Rotations and byte order -/

/-- `95_test_vectors.md` section 2.3. -/
theorem test_rotations :
    rotl 1#64 64 = 1#64 ∧ rotl 1#64 65 = 2#64 ∧ rotr 1#64 1 = 0x8000000000000000#64 ∧
      rotl 0x8000000000000001#64 1 = 3#64 := by decide
/-- The source bytes FF FE FD FC FB FA F9 F8 (section 2.7). -/
theorem test_le64 :
    le64 0xFF#8 0xFE#8 0xFD#8 0xFC#8 0xFB#8 0xFA#8 0xF9#8 0xF8#8 = 0xF8F9FAFBFCFDFEFF#64 := by decide

/-! ### Key Scheduler -/

/-- V-KX-2, V-KX-5, V-TX-2. -/
theorem test_extensions :
    (keyExt (keyN .v256)).getD 4 0#64 = 0x1BD11BDAA9FC1A22#64 ∧
    (keyExt [keyConst, 0#64, 0#64, 0#64]).getD 4 1#64 = 0#64 ∧
    (tweakExt tweakN).getD 2 0#64 = 0x0808080808080808#64 := by decide
/-- V-KS-2, groups 2 and 18. -/
theorem test_schedule_256 :
    (schedule .v256 (keyN .v256) tweakN).getD 2 [] =
      [0x2726252423222120#64, 0x3736353433323130#64, 0x22D720DEACFE1B22#64,
       0x1716151413121112#64] ∧
    (schedule .v256 (keyN .v256) tweakN).getD 18 [] =
      [0x2F2E2D2C2B2A2928#64, 0x22D720DEACFE1B22#64, 0x262422201E1C1A18#64,
       0x1F1E1D1C1B1A192A#64] := by decide +kernel
/-- V-KS-7, group 20. -/
theorem test_schedule_1024 :
    ((schedule .v1024 (keyN .v1024) tweakN).getD 20 []).drop 12 =
      [0x8F8E8D8C8B8A8988#64, 0x23D923E2B204222A#64, 0x1E1C1A1816141210#64,
       0x1F1E1D1C1B1A192C#64] := by decide +kernel

/-! ### Round Engine -/

/-- V-MIX-4, V-MIX-6, V-MIX-7. -/
theorem test_mix :
    mix 0xFFFFFFFFFFFFFFFF#64 1#64 32 = (0#64, 0x0000000100000000#64) ∧
    mix 0x0123456789ABCDEF#64 0xFEDCBA9876543210#64 46 =
      (0xFFFFFFFFFFFFFFFF#64, 0xF37BC048D159E26A#64) ∧
    mix 0xFFFFFFFFFFFFFFFF#64 0xFFFFFFFFFFFFFFFF#64 0 =
      (0xFFFFFFFFFFFFFFFE#64, 1#64) := by decide
/-- Section 2.3, the UNMIX corner case. -/
theorem test_unmix :
    unmix 0#64 0x0000000100000000#64 32 = (0xFFFFFFFFFFFFFFFF#64, 1#64) := by decide
/-- V-PERM-8. -/
theorem test_permute_512 :
    permute .v512 [0#64, 1#64, 2#64, 3#64, 4#64, 5#64, 6#64, 7#64] =
      [2#64, 1#64, 4#64, 7#64, 6#64, 5#64, 0#64, 3#64] := by decide
/-- V-INJ-2, V-INJ-3: no carry or borrow between words. -/
theorem test_inject :
    inject [[1#64, 0#64, 0#64, 0#64]] 0 [0xFFFFFFFFFFFFFFFF#64, 0#64, 0#64, 0#64] =
      [0#64, 0#64, 0#64, 0#64] ∧
    eject [[1#64, 0#64, 0#64, 0#64]] 0 [0#64, 0#64, 0#64, 0#64] =
      [0xFFFFFFFFFFFFFFFF#64, 0#64, 0#64, 0#64] := by decide
/-- V-TRACE-1024-N, v_1. -/
theorem test_round_1024 :
    roundStep .v1024 0 (injectBefore (schedule .v1024 (keyN .v1024) tweakN) 0 (plainN .v1024)) =
      [0x202020202020201E#64, 0x3030303030302F0E#64, 0x202020202020201E#64, 0x6222E1A060E7E49B#64,
       0x202020202020201E#64, 0x00000000003E003E#64, 0x202020202020201E#64, 0x2D2C2CCE29282B24#64,
       0x202020202020201E#64, 0x2827A82828282816#64, 0x272625242322211E#64, 0x222222222221C21C#64,
       0x2F2E2D2C2B2A2926#64, 0x3030303030302F0E#64, 0x202020202020201E#64,
       0x303030302F30300E#64] := by decide +kernel
/-- V-KAT-512-N. -/
theorem test_encrypt_block_512 :
    encryptBlock .v512 (schedule .v512 (keyN .v512) tweakN) (plainN .v512) =
      [0x2C5AD426964304E3#64, 0x9A2436D6D8CA01B4#64, 0xDD456DB00E333863#64, 0x794725970EB9368B#64,
       0x043546998D0A2A27#64, 0x25A7C918EA204478#64, 0x346201A1FEDF11AF#64,
       0x3DAF1C5C3D672789#64] := by decide +kernel
/-- V-KAT-1024-N. -/
theorem test_encrypt_block_1024 :
    encryptBlock .v1024 (schedule .v1024 (keyN .v1024) tweakN) (plainN .v1024) =
      [0xB0C33CD7DB4D65A6#64, 0xBC49A85A1077D75D#64, 0x6855FCAFEA7293E4#64, 0x1C5385AB1B7754D2#64,
       0x30E4AAFFE780F794#64, 0xE1BBEE708CAFD8D5#64, 0x9CA837B7423B0F76#64, 0xBD1403670D4963B3#64,
       0x451F2E3CE61EA48A#64, 0xB360832F9277D4FB#64, 0x0AAFC7A65E12D688#64, 0xC8906E79016D05D7#64,
       0xB316570A15F41333#64, 0x74E98A2869F5D50E#64, 0x57CE6F9247432BCE#64,
       0xDE7CDD77215144DE#64] := by decide +kernel
/-- V-BLK-2: any block decrypts. -/
theorem test_decrypt_block_256 :
    decryptBlock .v256 (schedule .v256 (List.replicate 4 0#64) (Vector.replicate 2 0#64))
        (List.replicate 4 0#64) =
      [0xADAA62AD1F850D19#64, 0xF5D78220F6744B6B#64, 0xFC4D94DA2C29F59F#64,
       0xFB46C01C3CF4D4DA#64] := by decide +kernel

/-! ### The commands, one step each -/

/-- V-DEC-1 from UNINIT, and KS[1] of V-KS-1. -/
theorem test_construct_succeeds :
    (after (step (fresh .v256 0x0000000010002001#64))).map
      (fun t => (t.statusWord, t.ks.getD 1 [])) =
      some (0x6#64, [0#64, 0#64, 0#64, 0x1BD11BDAA9FC1A23#64]) := by decide +kernel
/-- V-SRC-4, both lengths wrong; V-DEC-14; V-DEC-13 from CONSTRUCTED. -/
theorem test_construct_errors :
    (after (step (fresh .v256 0x0000000008001F01#64))).map State.statusWord =
      some 0x0000000000200104#64 ∧
    (after (step (fresh .v256 0x0000000020002001#64))).map State.statusWord =
      some 0x0000000000100204#64 ∧
    (after (step (ready .v256 0x0000000000000001#64))).map State.statusWord =
      some 0x0000000000000506#64 := by decide +kernel
/-- V-KAT-256-N, through the step. -/
theorem test_encrypt_succeeds :
    (after (step (({ built .v256 (keyN .v256) tweakN with
        dataIn := fileOf (plainN .v256) }).withFetchWord 64 0x20002002))).map
      (fun t => (t.statusWord, usedWords .v256 t.dataOut)) =
      some (0x6#64, [0xDF8FEA0EFF91D0E0#64, 0xD50AD82EE69281C9#64, 0x76F48D58085D869D#64,
        0xDF975E95B5567065#64]) := by decide +kernel
/-- V-DEC-10 and V-DEC-11, and the 1024 value of section 2.6. -/
theorem test_encrypt_errors :
    (after (step (fresh .v256 0x0000000010002002#64))).map State.statusWord =
      some 0x0000000000000404#64 ∧
    (after (step (ready .v256 0x0000000040004002#64))).map State.statusWord =
      some 0x0000000000200306#64 ∧
    (after (step (ready .v1024 0x0000000020002002#64))).map State.statusWord =
      some 0x0000000000800306#64 := by decide +kernel
/-- V-KAT-256-N decrypted, through the step. -/
theorem test_decrypt_succeeds :
    (after (step (({ built .v256 (keyN .v256) tweakN with
        dataIn := fileOf [0xDF8FEA0EFF91D0E0#64, 0xD50AD82EE69281C9#64, 0x76F48D58085D869D#64,
          0xDF975E95B5567065#64] }).withFetchWord 64 0x20002003))).map
      (fun t => (t.statusWord, usedWords .v256 t.dataOut)) =
      some (0x6#64, plainN .v256) := by decide +kernel
/-- V-DEC-3 and V-DEC-12. -/
theorem test_decrypt_errors :
    (after (step (fresh .v256 0x0000000020002003#64))).map State.statusWord =
      some 0x0000000000000404#64 ∧
    (after (step (ready .v256 0x000000FFFFFFFF03#64))).map State.statusWord =
      some 0x0000000000200306#64 := by decide +kernel
/-- V-DEC-7 in both states. -/
theorem test_illegal :
    (after (step (fresh .v256 0x0000000010002011#64))).map State.statusWord =
      some 0x0000000000000604#64 ∧
    (after (step (ready .v256 0x0000000010002011#64))).map State.statusWord =
      some 0x0000000000000606#64 := by decide +kernel

/-! ### The window -/

/-- V-MEM-1 to V-MEM-4. -/
theorem test_reads_after_reset :
    (State.resetOf .v256).memRead 0x000 = 0x0000001348040100#64 ∧
    (State.resetOf .v256).memRead 0x008 = 0x20#64 ∧ (State.resetOf .v256).memRead 0x010 = 0#64 ∧
    (State.resetOf .v256).memRead 0x018 = 0#64 := by decide
/-- V-MEM-5 to V-MEM-8. -/
theorem test_writes :
    ((State.resetOf .v256).memWrite 0x100 0x1716151413121110#64).memRead 0x100 = 0#64 ∧
    ((State.resetOf .v256).memWrite 0x100 0x1716151413121110#64).keyIn[0] =
      0x1716151413121110#64 ∧
    ((State.resetOf .v256).memWrite 0x200 0xF8F9FAFBFCFDFEFF#64).memRead 0x200 =
      0xF8F9FAFBFCFDFEFF#64 ∧
    (State.resetOf .v256).memWrite 0x220 1#64 = State.resetOf .v256 ∧
    (State.resetOf .v256).memWrite 0x280 1#64 = State.resetOf .v256 := by decide +kernel
/-- V-MEM-9 and V-MEM-11. -/
theorem test_refused_accesses :
    ((State.resetOf .v256).busAccess ⟨0x004, .bytes 8, .read⟩).response = some .busError ∧
    ((State.resetOf .v256).busAccess ⟨0x018, .bytes 4, .write 1#64⟩).pending = false := by decide
/-- Section 2.7: byte 0x207 of the window is 0xF8. -/
theorem test_window_byte :
    ((State.resetOf .v256).memWrite 0x200 0xF8F9FAFBFCFDFEFF#64).windowByte 0x207 = 0xF8#8 := by
  decide
/-- Section 1, inputs N: the key bytes 0x10 upwards are the key's words, and stand at 0x100 (R67). -/
theorem test_key_bytes :
    leWords ((List.range 32).map fun i => BitVec.ofNat 8 (0x10 + i)) 4 = keyN .v256 ∧
    ((State.resetOf .v256).memWrite 0x100 0x1716151413121110#64).windowByte 0x101 = 0x11#8 ∧
    ((State.resetOf .v256).memWrite 0x188 0x0F0E0D0C0B0A0908#64).windowByte 0x188 = 0x08#8 := by
  decide
/-- V-KAT-256-Z: the first result bytes. -/
theorem test_result_bytes :
    ({ State.resetOf .v256 with
      dataOut := fileOf [0x94EEEA8B1F2ADA84#64] }.resultBytes).take 8 =
      [0x84#8, 0xDA#8, 0x2A#8, 0x1F#8, 0x8B#8, 0xEA#8, 0xEE#8, 0x94#8] := by decide
/-- Program P4, case (a): the second CMD write sets OVERRUN and the snapshot stands. -/
theorem test_overrun :
    ((ready .v256 0x20002002#64).memWrite 0x018 0x20002003#64).statusWord = 0xB#64 ∧
    ((ready .v256 0x20002002#64).memWrite 0x018 0x20002003#64).latch.cmd = 0x20002002#64 := by
  decide +kernel

/-- R100, with the words of programs P1 and P2: 0x6 and 0x200104 end a POLL; BUSY = 1, and DONE = 0 as
after reset, do not. -/
theorem test_poll_test :
    pollEnds 0x6#64 = true ∧ pollEnds 0x200104#64 = true ∧ pollEnds 0x1#64 = false ∧
    pollEnds 0x0#64 = false ∧ pollEnds 0x2#64 = false := by decide
/-- R100: after the read the host stays at a POLL or leaves it. -/
theorem test_poll_line (e : Event) :
    HostLine.next ⟨e, true⟩ [] { State.reset with response := some (.data 0x1#64) } = [⟨e, true⟩] ∧
    HostLine.next ⟨e, true⟩ [] { State.reset with response := some (.data 0x6#64) } = [] :=
  ⟨rfl, rfl⟩

/-! ### Witnesses: the hypotheses of each statement are met by a concrete state -/

theorem witness_ResetEventAbandonsTheCommand :
    ({ fresh .v256 1#64 with inputs := [.reset] }).inputs = .reset :: [] := rfl

theorem witness_IdAndBlockSizeAreConstants :
    (withEvent (.access ⟨0x1000, .bytes 8, .read⟩) State.reset).inputs =
      [.access ⟨0x1000, .bytes 8, .read⟩] ∧ 0x1000 % 4096 = 0x000 ∧
    (withEvent (.access ⟨0x000, .bytes 8, .write 7#64⟩) State.reset).inputs =
      [.access ⟨0x000, .bytes 8, .write 7#64⟩] ∧
    (withEvent (.access ⟨0x008, .bytes 8, .read⟩) State.reset).inputs =
      [.access ⟨0x008, .bytes 8, .read⟩] ∧
    (withEvent (.access ⟨0x008, .bytes 8, .write 7#64⟩) State.reset).inputs =
      [.access ⟨0x008, .bytes 8, .write 7#64⟩] := by decide

theorem witness_OverrunIsStickyUntilClearedOrReset :
    (after (step (withEvent (.access ⟨0x018, .bytes 8, .write 0#64⟩) (fresh .v256 1#64)))).map
      State.overrun = some true ∧
    (after (step (withEvent (.access ⟨0x010, .bytes 8, .write 8#64⟩)
      { State.reset with overrun := true }))).map State.overrun = some false ∧
    (after (step (withEvent (.access ⟨0x010, .bytes 8, .write 7#64⟩)
      { State.reset with overrun := true }))).map State.overrun = some true ∧
    (after (step (withEvent .reset { State.reset with overrun := true }))).map State.overrun =
      some false := by decide

theorem witness_OnlyWellFormedCommandsSucceed :
    (after (exec (.construct 32#16 16#16) State.reset)).map State.err = some .none := by
  decide +kernel

theorem witness_CmdWriteIssuesOrOverruns :
    (withEvent (.access ⟨0x018, .bytes 8, .write 0#64⟩) State.reset).pending = false ∧
    (withEvent (.access ⟨0x018, .bytes 8, .write 0#64⟩) (fresh .v256 1#64)).pending = true ∧
    (withEvent (.access ⟨0x018, .bytes 8, .write 0#64⟩) State.reset).inputs =
      [.access ⟨0x018, .bytes 8, .write 0#64⟩] := by decide

theorem witness_StepRunsTheDecodedCommand :
    (fresh .v256 1#64).pending = true ∧ (fresh .v256 1#64).inputs.head? = some .engine ∧
    decode (fresh .v256 1#64).latch.cmd = .ok (.construct 0#16 0#16) ∧
    decodeTableWord 64 1 = some (.construct 0#16 0#16) := by decide

theorem witness_IdleEngineChangesNothing :
    State.reset.pending = false ∧ State.reset.engineMoves := ⟨rfl, .inl rfl⟩

theorem witness_IllegalWordEndsWithIllegalCmd :
    (fresh .v256 0#64).pending = true ∧ (fresh .v256 0#64).engineMoves ∧
    (fresh .v256 0#64).latch.cmd.extractLsb' 0 4 = 0#4 ∧
    4 ≤ ((fresh .v256 4#64).latch.cmd.extractLsb' 0 4).toNat ∧
    (fresh .v256 0x11#64).latch.cmd.extractLsb' 4 4 ≠ 0#4 ∧
    (fresh .v256 0x8000000000000001#64).latch.cmd.extractLsb' 40 24 ≠ 0#24 :=
  ⟨rfl, .inr rfl, by decide, by decide, by decide, by decide⟩

theorem witness_CompletionWithAnErrorWritesOnlyStatus :
    (fresh .v256 0#64).pending = true ∧ (fresh .v256 0#64).engineMoves ∧
    (after (step (fresh .v256 0#64))).map State.err = some .illegalCmd :=
  ⟨rfl, .inr rfl, by decide⟩

theorem witness_FirstApplicableErrorIsReported :
    (fresh .v256 3#64).pending = true ∧ (fresh .v256 3#64).engineMoves ∧
    (after (step (fresh .v256 3#64))).map State.err = some .notConstructed :=
  ⟨rfl, .inr rfl, by decide⟩

theorem witness_EveryIssuedCommandCompletes :
    (fresh .v256 1#64).pending = true ∧ .reset ∉ (fresh .v256 1#64).inputs := by decide

theorem witness_HostAccessesDoNotDisturbTheCommandInFlight :
    ∃ (s : State) (a : BusAccess), s.pending = true ∧ s.inputs = [.access a, .engine] ∧
      (after (core.run 2 s)).isSome = true ∧
      (after (step { s with inputs := [.engine] })).isSome = true :=
  ⟨{ fresh .v256 1#64 with inputs := [.access ⟨0x018, .bytes 8, .write 2#64⟩, .engine] },
    ⟨0x018, .bytes 8, .write 2#64⟩, by decide, by decide, by decide +kernel, by decide +kernel⟩

theorem witness_CmdWriteAfterCompletionIssues :
    ∃ s : State, s.pending = true ∧
      s.inputs = [.engine, .access ⟨0x018, .bytes 8, .write 2#64⟩] :=
  ⟨{ fresh .v256 1#64 with inputs := [.engine, .access ⟨0x018, .bytes 8, .write 2#64⟩] },
    by decide, by decide⟩

theorem witness_ConstructInstallsTheScheduleOrReports :
    (State.resetOf .v1024).st = .uninit ∧
    (128#16).toNat = 8 * (State.resetOf .v1024).variant.nw ∧ (16#16).toNat = 16 ∧
    (ready .v256 1#64).st = .constructed ∧ (fresh .v256 1#64).st = .uninit ∧
    (31#16).toNat ≠ 8 * (fresh .v256 1#64).variant.nw ∧
    (32#16).toNat = 8 * (fresh .v256 1#64).variant.nw ∧ (17#16).toNat ≠ 16 := by decide +kernel

theorem witness_EncryptAndDecryptWriteTheResultOrReport :
    (ready .v512 2#64).st = .constructed ∧ (64#16).toNat = 8 * (ready .v512 2#64).variant.nw ∧
    (fresh .v256 2#64).st = .uninit ∧ (ready .v256 2#64).st = .constructed ∧
    (33#16).toNat ≠ 8 * (ready .v256 2#64).variant.nw := by decide +kernel

theorem witness_EngineDecryptsWhatItEncrypted :
    (ready .v256 2#64).st = .constructed ∧ (32#16).toNat = 8 * (ready .v256 2#64).variant.nw ∧
    (ready .v256 2#64).latch.data.length = (ready .v256 2#64).variant.nw ∧
    ∃ t, exec (.encrypt 32#16 32#16) (ready .v256 2#64) = .next t ∧
      ∃ u, exec (.decrypt 32#16 32#16)
        ({ t with dataIn := t.dataOut }.issue (encode (.decrypt 32#16 32#16))) = .next u :=
  ⟨rfl, by decide, by decide, _, rfl, _, rfl⟩

theorem witness_CommandsChangeOnlyStatusAndResultBytes :
    (∃ t, exec (.construct 32#16 16#16) (fresh .v256 1#64) = .next t) ∧
    (∃ t, exec (.encrypt 32#16 32#16) (ready .v256 2#64) = .next t) ∧
    ¬(0x010 ≤ 0x00F ∧ 0x00F < 0x018) ∧ ¬(0x010 ≤ 0x018 ∧ 0x018 < 0x018) ∧
    ¬(0x280 ≤ 0x2A0 ∧ 0x2A0 < 0x280 + 8 * (ready .v256 2#64).variant.nw) :=
  ⟨⟨_, rfl⟩, ⟨_, rfl⟩, by decide, by decide, by decide +kernel⟩

theorem witness_OutcomeDependsOnLatchStAndKsAlone :
    ∃ s t : State, s ≠ t ∧ s.variant = t.variant ∧ s.latch = t.latch ∧ s.st = t.st ∧ s.ks = t.ks ∧
      (∃ s', exec (.encrypt 32#16 32#16) s = .next s') ∧
      ∃ t', exec (.encrypt 32#16 32#16) t = .next t' :=
  ⟨ready .v256 2#64, { ready .v256 2#64 with overrun := true },
    fun h => by
      have h2 : (ready .v256 2#64).overrun = true := by rw [h]
      revert h2; decide,
    rfl, rfl, rfl, rfl, ⟨_, rfl⟩, _, rfl⟩

theorem witness_ConstructedEngineNeverFailsWellFormedWords :
    (ready .v256 0x20002002#64).pending = true ∧ (ready .v256 0x20002002#64).engineMoves ∧
    (ready .v256 0x20002002#64).st = .constructed ∧
    (Instr.encrypt 32#16 32#16).wf (ready .v256 0x20002002#64).variant = true ∧
    (ready .v256 0x20002002#64).latch.cmd = encode (.encrypt 32#16 32#16) :=
  ⟨rfl, .inr rfl, rfl, by decide, by decide⟩

theorem witness_ScheduleFollowsTheSubkeyFormula :
    (keyN .v1024).length = Variant.nw .v1024 ∧ 20 ≤ Variant.nr .v1024 / 4 ∧
      15 < Variant.nw .v1024 := by decide

theorem witness_RotationsAreCircular : 0 < 64 ∧ 63 < 64 := by decide

/-- Shared by the statements about a block of NW words. -/
theorem witness_block_of_each_variant :
    (plainN .v256).length = Variant.nw .v256 ∧ (plainN .v512).length = Variant.nw .v512 ∧
      (plainN .v1024).length = Variant.nw .v1024 ∧ 15 < Variant.nw .v1024 := by decide

theorem witness_EjectInvertsInject : 3 < (plainN .v256).length := by decide

theorem witness_ReadReturnsTheRegisterOfTheMap :
    (∀ a ∈ [0x000, 0x008, 0x010, 0x018, 0x020, 0x1F8, 0x200, 0x218, 0x220, 0x278, 0x280, 0x298,
      0x2A0, 0xFF8, 0x1000],
      (withEvent (.access ⟨a, .bytes 8, .read⟩) State.reset).inputs =
        [.access ⟨a, .bytes 8, .read⟩] ∧ a % 8 = 0) ∧
    0x218 = 0x200 + 8 * (3 : Fin 16).val ∧ (3 : Fin 16).val < State.reset.variant.nw ∧
    0x298 = 0x280 + 8 * (3 : Fin 16).val ∧ 0x200 + 8 * State.reset.variant.nw ≤ 0x220 ∧
    0x280 + 8 * State.reset.variant.nw ≤ 0x2A0 := by decide

theorem witness_WriteActsOnTheRegisterOfTheMap :
    (∀ a ∈ [0x000, 0x008, 0x010, 0x018, 0x020, 0x0F8, 0x100, 0x118, 0x120, 0x178, 0x180, 0x188,
      0x190, 0x1F8, 0x200, 0x218, 0x220, 0xFF8],
      (withEvent (.access ⟨a, .bytes 8, .write 8#64⟩) State.reset).inputs =
        [.access ⟨a, .bytes 8, .write 8#64⟩] ∧ a % 8 = 0) ∧
    0x118 = 0x100 + 8 * (3 : Fin 16).val ∧ (3 : Fin 16).val < State.reset.variant.nw ∧
    0x188 = 0x180 + 8 * (1 : Fin 2).val ∧ 0x100 + 8 * State.reset.variant.nw ≤ 0x120 := by decide

theorem witness_RefusedAccessChangesNothing :
    AccessWidth.bytes 4 ≠ .bytes 8 ∧ AccessWidth.burst 8 ≠ .bytes 8 ∧ 0x01C % 8 ≠ 0 ∧
    (withEvent (.access ⟨0x018, .bytes 4, .write 1#64⟩) State.reset).inputs =
      [.access ⟨0x018, .bytes 4, .write 1#64⟩] := by decide

theorem witness_ReadsAreIdempotent :
    ∃ s t : State, s.inputs =
        [.access ⟨0x010, .bytes 8, .read⟩, .access ⟨0x010, .bytes 8, .read⟩] ∧ step s = .next t :=
  ⟨{ State.reset with
      inputs := [.access ⟨0x010, .bytes 8, .read⟩, .access ⟨0x010, .bytes 8, .read⟩] },
    _, rfl, rfl⟩

theorem witness_OnlyTheLowTwelveAddressBitsCount : 0 < 4096 ∧ 4095 < 4096 := by decide

theorem witness_WindowBytesAreTheBlockBytes :
    31 < 8 * (State.resetOf .v256).variant.nw ∧ 127 < 8 * (State.resetOf .v1024).variant.nw ∧
      15 < 16 := by decide

theorem witness_BytesAndWordsRoundTrip : (wordBytes 1#64).length = 8 * 1 := by decide

theorem witness_KeyMaterialCannotBeReadBack :
    ∃ s t : State, SameButSecrets s t ∧ s.keyIn ≠ t.keyIn :=
  ⟨State.reset, State.reset.writeKeyIn 0 1#64, ⟨rfl, rfl, rfl, rfl, rfl, rfl, rfl, rfl, rfl⟩,
    by decide⟩

theorem witness_PollWithoutIssueNeverEnds :
    ∃ s : State, s.pending = false ∧ s.done = false ∧
      s.inputs = List.replicate 2 (rd .status) :=
  ⟨{ State.reset with inputs := List.replicate 2 (rd .status) }, rfl, rfl, rfl⟩

theorem witness_StepKeepsWellFormedStates : State.reset.Wf ∧ step State.reset = .next State.reset :=
  ⟨by constructor <;> decide, rfl⟩

theorem witness_StepKeepsTheScheduleInvariant :
    (built .v256 (keyN .v256) tweakN).Wf ∧ (built .v256 (keyN .v256) tweakN).HoldsSchedule ∧
    (built .v256 (keyN .v256) tweakN).st = .constructed ∧
    ∃ t, step (built .v256 (keyN .v256) tweakN) = .next t :=
  ⟨by constructor <;> decide +kernel, fun _ => ⟨keyN .v256, tweakN, by decide, rfl⟩, rfl, _, rfl⟩

theorem witness_ConstructedIsTerminalUntilReset :
    (fresh .v256 0x10002001#64).inputs.head? ≠ some .reset ∧
    (fresh .v256 0x10002001#64).st = .uninit ∧
    (after (step (fresh .v256 0x10002001#64))).map State.st = some .constructed := by
  decide +kernel

theorem witness_DataOutChangesOnlyBySuccessfulCrypt :
    (after (step (ready .v256 0x20002002#64))).map
      (fun t => decide (t.dataOut ≠ (ready .v256 0x20002002#64).dataOut)) = some true := by
  decide +kernel

theorem witness_InputRegistersChangeOnlyByTheirOwnWrite :
    (after (step (withEvent (.access ⟨0x118, .bytes 8, .write 9#64⟩) State.reset))).map
      (fun t => t.keyIn[3]) = some 9#64 ∧
    (after (step (withEvent (.access ⟨0x188, .bytes 8, .write 9#64⟩) State.reset))).map
      (fun t => t.tweakIn[1]) = some 9#64 ∧
    (after (step (withEvent (.access ⟨0x218, .bytes 8, .write 9#64⟩) State.reset))).map
      (fun t => t.dataIn[3]) = some 9#64 := by decide

theorem witness_UnspecifiedStateIsNeverObserved :
    ∃ s t : State, SameSpecified s t ∧ s.ks ≠ t.ks ∧ s.latch ≠ t.latch ∧ s.dp ≠ t.dp ∧
      core.run 1 s = .next s ∧ core.run 1 t = .next t :=
  ⟨State.reset,
    { State.reset with
      ks := schedule .v256 (keyN .v256) tweakN
      latch := ⟨1#64, keyN .v256, tweakN, plainN .v256⟩, dp := ⟨plainN .v256, 5⟩ },
    ⟨rfl, rfl, rfl, rfl, rfl, rfl, rfl, rfl, rfl, rfl, rfl, rfl, rfl, by decide, by decide⟩,
    by decide +kernel, by decide, by decide, rfl, rfl⟩

theorem witness_LatencyDependsOnPublicValuesOnly :
    ∃ s t : State, s.variant = t.variant ∧ s.st = t.st ∧ s.latch.cmd = t.latch.cmd ∧
      s.latch.key ≠ t.latch.key :=
  ⟨fresh .v256 1#64, { fresh .v256 1#64 with latch := ⟨1#64, keyN .v256, tweakN, []⟩ },
    rfl, rfl, rfl, by decide⟩

theorem witness_LatencyFollowsTheOutcome :
    (fresh .v256 1#64).pending = true ∧ (ready .v256 0x20002002#64).pending = true ∧
    (after (engineStep (fresh .v256 1#64))).map State.err = some .keySize ∧
    (after (engineStep (ready .v256 0x20002002#64))).map State.err = some .none := by
  decide +kernel

/-- Thirty-two bytes, the key of the inputs N. -/
def bytesN : List Byte := (List.range 32).map fun i => BitVec.ofNat 8 (0x10 + i)

theorem witness_ByteInterfaceMapsOntoTheRegisters :
    (∃ s : State, bytesN.length = 8 * s.variant.nw ∧
      s.inputs = writeKeyBytes s.variant bytesN ++ []) ∧
    (∃ s : State, (bytesN.take 16).length = 16 ∧
      s.inputs = writeTweakBytes s.variant (bytesN.take 16) ++ []) ∧
    (∃ s : State, bytesN.length = 8 * s.variant.nw ∧
      s.inputs = writeSourceBytes s.variant bytesN ++ []) ∧
    31 < 8 * State.reset.variant.nw ∧ 15 < 16 ∧ (3 : Fin 16).val < State.reset.variant.nw ∧ 7 < 8 :=
  ⟨⟨{ State.reset with inputs := writeKeyBytes .v256 bytesN ++ [] }, by decide, rfl⟩,
    ⟨{ State.reset with inputs := writeTweakBytes .v256 (bytesN.take 16) ++ [] }, by decide, rfl⟩,
    ⟨{ State.reset with inputs := writeSourceBytes .v256 bytesN ++ [] }, by decide, rfl⟩,
    by decide, by decide, by decide, by decide⟩

/-- A host at a POLL with CLROVR after it, beside a machine. -/
def atPoll (s : State) : HostRun :=
  ⟨s, HostOp.poll.lines s.variant ++ HostOp.clrOvr.lines s.variant⟩

theorem witness_PollRepeatsItsReadUntilTheTestHolds :
    (atPoll { State.reset with done := true }).machine.pending = false ∧
    (atPoll { State.reset with done := true }).machine.done = true ∧
    (atPoll (fresh .v256 0#64)).machine.pending = true ∧ (atPoll State.reset).machine.done = false ∧
    (atPoll State.reset).lines = HostOp.poll.lines .v256 ++ HostOp.clrOvr.lines .v256 :=
  ⟨rfl, rfl, rfl, rfl, rfl⟩

theorem witness_PollWithNoCommandIsStuck :
    (atPoll State.reset).lines = HostOp.poll.lines .v256 ++ HostOp.clrOvr.lines .v256 ∧
    (atPoll State.reset).machine.pending = false ∧ (atPoll State.reset).machine.done = false :=
  ⟨rfl, rfl, rfl⟩

theorem witness_PollEndsAfterTheCompletionItFollows :
    (atPoll (fresh .v256 0#64)).lines = HostOp.poll.lines .v256 ++ HostOp.clrOvr.lines .v256 ∧
    (atPoll (fresh .v256 0#64)).machine.pending = true := ⟨rfl, rfl⟩

end Sys2Proof.Tests
end

section
/-! SUPPORT. The identity registers, OVERRUN and the construction state: what one step does to each
(R21, R22, R27, R36, R44). -/

namespace Sys2Proof.Machine

/-! ### One step by its event -/

/-- The three kinds of step, read off the first event. -/
theorem step_head_cases {s t : State} (h : step s = .next t) :
    (s.engineMoves ∧ engineStep { s with inputs := s.inputs.tail } = .next t) ∨
    (s.inputs.head? = some .reset ∧ t = State.resetEvent { s with inputs := s.inputs.tail }) ∨
    (∃ a, s.inputs.head? = some (.access a) ∧
      t = State.busAccess a { s with inputs := s.inputs.tail }) := by
  by_cases hm : s.engineMoves
  · exact .inl ⟨hm, step_of_engineMoves hm ▸ h⟩
  · rcases step_cases h with ⟨hi, _⟩ | ⟨rest, hi, _⟩ | ⟨rest, hi, e⟩ | ⟨a, rest, hi, e⟩
    · exact absurd (.inl hi) hm
    · exact absurd (.inr (by simp [hi])) hm
    · exact .inr (.inl ⟨by simp [hi], by simpa [hi] using e⟩)
    · exact .inr (.inr ⟨a, by simp [hi], by simpa [hi] using e⟩)

/-- At the engine's turn the next event is no access. -/
theorem State.engineMoves.head_ne_access {s : State} (h : s.engineMoves) (a : BusAccess) :
    s.inputs.head? ≠ some (.access a) := by
  rcases h with h | h <;> simp [h]

/-- At the engine's turn the next event is no reset. -/
theorem State.engineMoves.head_ne_reset {s : State} (h : s.engineMoves) :
    s.inputs.head? ≠ some .reset := by
  rcases h with h | h <;> simp [h]

/-- The engine's turn is nothing or the completion of the command in flight. -/
theorem engineStep_cases {s t : State} (h : engineStep s = .next t) :
    t = s ∨ (s.pending = true ∧ Completion s t) := by
  cases hp : s.pending with
  | false => rw [engineStep_idle s hp] at h; exact .inl (by simpa using h.symm)
  | true =>
    obtain ⟨u, hu, hc⟩ := engineStep_pending s hp
    obtain rfl : u = t := by simpa [hu] using h
    exact .inr ⟨rfl, hc⟩

/-- A host access is one step. -/
theorem step_access {s : State} {a : BusAccess} {rest : List Event}
    (h : s.inputs = .access a :: rest) :
    step s = .next (State.busAccess a { s with inputs := rest }) := by
  simp [step, h, handleEvent]

/-- No register's value depends on the events still to come. -/
@[simp] theorem memRead_inputs (s : State) (rest : List Event) (off : Nat) :
    State.memRead { s with inputs := rest } off = s.memRead off := by
  unfold State.memRead
  cases regAt off <;> rfl

/-- An aligned read of eight bytes answers with the register's value and does nothing else (R64). -/
theorem step_alignedRead {s : State} {addr : Nat} {rest : List Event} (h8 : addr % 8 = 0)
    (h : s.inputs = .access ⟨addr, .bytes 8, .read⟩ :: rest) :
    step s = .next { s with
      inputs := rest, response := some (.data (s.memRead (addr % 4096))) } := by
  rw [step_access h, busAccess_read _ _ ((accepts_iff _).mpr ⟨rfl, h8⟩) rfl, memRead_inputs]
  rfl

/-- An aligned write of eight bytes writes the register and is acknowledged (R65). -/
theorem step_alignedWrite {s : State} {addr : Nat} {w : Word} {rest : List Event}
    (h8 : addr % 8 = 0) (h : s.inputs = .access ⟨addr, .bytes 8, .write w⟩ :: rest) :
    step s = .next { State.memWrite { s with inputs := rest } (addr % 4096) w with
      response := some .ok } := by
  rw [step_access h, busAccess_write _ _ w ((accepts_iff _).mpr ⟨rfl, h8⟩) rfl]
  rfl

/-! ### ID and BLOCKSIZE -/

/-- The constant of ID in each variant (R21). -/
def idConst : Variant → Word
  | .v256 => 0x0000001348040100#64
  | .v512 => 0x0000001348080200#64
  | .v1024 => 0x0000001550100400#64

/-- The constant of BLOCKSIZE in each variant (R22). -/
def blockSizeConst : Variant → Word
  | .v256 => 32#64
  | .v512 => 64#64
  | .v1024 => 128#64

/-- A read of ID gives the variant's constant. -/
theorem memRead_id (s : State) : s.memRead 0x000 = idConst s.variant := by
  rw [State.memRead, regAt_id, State.readReg, State.idWord]
  cases s.variant <;> decide

/-- A read of BLOCKSIZE gives the variant's constant. -/
theorem memRead_blockSize (s : State) : s.memRead 0x008 = blockSizeConst s.variant := by
  rw [State.memRead, regAt_blockSize, State.readReg, State.blockSizeWord]
  cases s.variant <;> decide

/-- A read of CMD gives 0 (R30). -/
theorem memRead_cmd (s : State) : s.memRead 0x018 = 0#64 := by
  rw [State.memRead, regAt_cmd, State.readReg]

/-- A write of ID is ignored. -/
theorem memWrite_id (s : State) (w : Word) : s.memWrite 0x000 w = s := by
  rw [State.memWrite, regAt_id, State.writeReg]

/-- A write of BLOCKSIZE is ignored. -/
theorem memWrite_blockSize (s : State) (w : Word) : s.memWrite 0x008 w = s := by
  rw [State.memWrite, regAt_blockSize, State.writeReg]

/-! ### OVERRUN -/

/-- The map has CMD at 0x018 only. -/
theorem regAt_eq_cmd_iff (off : Nat) : regAt off = .cmd ↔ off = 0x018 := by
  refine ⟨fun h => ?_, fun h => h ▸ regAt_cmd⟩
  unfold regAt at h
  split_ifs at h with _ _ _ hoff
  exact hoff

/-- The map has STATUS at 0x010 only. -/
theorem regAt_eq_status_iff (off : Nat) : regAt off = .status ↔ off = 0x010 := by
  refine ⟨fun h => ?_, fun h => h ▸ regAt_status⟩
  unfold regAt at h
  split_ifs at h with _ _ hoff
  exact hoff

/-- A STATUS write clears OVERRUN by its bit 3 (R27). -/
@[simp] theorem writeStatus_overrun (s : State) (w : Word) :
    (s.writeStatus w).overrun = (s.overrun && !w.getLsbD 3) := by
  unfold State.writeStatus
  cases hw : w.getLsbD 3 <;> simp

/-- A CMD request sets OVERRUN while a command is in flight and keeps it otherwise (R180, R181). -/
@[simp] theorem commandRequest_overrun (s : State) (w : Word) :
    (s.commandRequest w).overrun = (s.pending || s.overrun) := by
  unfold State.commandRequest
  cases hp : s.pending <;> simp

/-- OVERRUN after a register write: a CMD write to a busy engine, or it was set and the write is no
clearing write of STATUS. -/
theorem writeReg_overrun_iff (s : State) (w : Word) (r : Reg) :
    (s.writeReg w r).overrun = true ↔
      (r = .cmd ∧ s.pending = true) ∨
        (s.overrun = true ∧ (r = .status → w.getLsbD 3 = false)) := by
  cases r <;> simp [State.writeReg]

/-- OVERRUN after a host access, accepted or not. -/
theorem busAccess_overrun_iff (s : State) (a : BusAccess) :
    (s.busAccess a).overrun = true ↔
      (s.pending = true ∧ ∃ addr w, a = ⟨addr, .bytes 8, .write w⟩ ∧ addr % 4096 = 0x018) ∨
      (s.overrun = true ∧ ∀ addr w, a = ⟨addr, .bytes 8, .write w⟩ → addr % 4096 = 0x010 →
        w.getLsbD 3 = false) := by
  cases ha : accepts a with
  | false =>
    have hunaligned : ∀ addr w, a = ⟨addr, .bytes 8, .write w⟩ → addr % 8 ≠ 0 := by
      rintro addr w rfl h8
      exact Bool.false_ne_true (ha.symm.trans ((accepts_iff _).mpr ⟨rfl, h8⟩))
    rw [busAccess_refused s a ha]
    constructor
    · exact fun ho => .inr ⟨ho, fun addr w e hoff => absurd (by omega) (hunaligned addr w e)⟩
    · rintro (⟨_, addr, w, e, hoff⟩ | ⟨ho, _⟩)
      · exact absurd (by omega) (hunaligned addr w e)
      · exact ho
  | true =>
    obtain ⟨addr, width, kind⟩ := a
    obtain ⟨rfl, _⟩ := (accepts_iff _).mp ha
    cases kind with
    | read => rw [busAccess_read s _ ha rfl]; simp
    | write w =>
      rw [busAccess_write s _ w ha rfl]
      simp [State.memWrite, writeReg_overrun_iff, windowOffset, regAt_eq_cmd_iff,
        regAt_eq_status_iff, and_comm]

/-- A completion leaves OVERRUN as it is (R182). -/
theorem Completion.overrun_eq {s t : State} (h : Completion s t) : t.overrun = s.overrun := by
  cases h <;> simp

/-- The engine's turn leaves OVERRUN as it is. -/
theorem engineStep_overrun {s t : State} (h : engineStep s = .next t) : t.overrun = s.overrun := by
  rcases engineStep_cases h with rfl | ⟨_, hc⟩
  · rfl
  · exact hc.overrun_eq

/-! ### ST and KS -/

/-- A host access leaves ST and KS as they are. -/
theorem busAccess_st_ks (s : State) (a : BusAccess) :
    (s.busAccess a).st = s.st ∧ (s.busAccess a).ks = s.ks := by
  have hcmd (w : Word) : (s.commandRequest w).st = s.st ∧ (s.commandRequest w).ks = s.ks := by
    unfold State.commandRequest
    split <;> exact ⟨rfl, rfl⟩
  obtain ⟨r, e | ⟨w, _, _, ⟨_, _, e⟩ | ⟨_, e⟩ | ⟨j, _, _, e⟩ | ⟨j, _, e⟩ | ⟨j, _, _, e⟩⟩⟩ :=
    busAccess_cases s a <;> rw [e]
  case inr.inr.inl => exact hcmd w
  all_goals exact ⟨rfl, rfl⟩

/-- On a constructed engine no turn changes ST or KS (R36, R128). -/
theorem engineStep_keeps_constructed {s t : State} (h : engineStep s = .next t)
    (hst : s.st = .constructed) : t.st = .constructed ∧ t.ks = s.ks := by
  rcases engineStep_cases h with rfl | ⟨_, hc⟩
  · exact ⟨hst, rfl⟩
  · cases hc with
    | constructed la lb dec st lenA lenB => simp [st] at hst
    | failed | encrypted | decrypted => simp [hst]

/-- A turn that constructs the engine completes a CONSTRUCT with the right lengths (R184). -/
theorem engineStep_enters_constructed {s t : State} (h : engineStep s = .next t)
    (hs : s.st = .uninit) (ht : t.st = .constructed) :
    s.pending = true ∧ ∃ la lb, decode s.latch.cmd = .ok (.construct la lb) ∧
      la.toNat = 8 * s.variant.nw ∧ lb.toNat = 16 := by
  rcases engineStep_cases h with rfl | ⟨hp, hc⟩
  · simp [hs] at ht
  · cases hc with
    | constructed la lb dec st lenA lenB => exact ⟨hp, la, lb, dec, lenA, lenB⟩
    | failed => simp [hs] at ht
    | encrypted la lb dec st | decrypted la lb dec st => simp [st] at hs

end Sys2Proof.Machine

open Sys2Proof Sys2Proof.Machine

/-- Settles O3: the map has the two registers at 0x000 and 0x008, and `memRead_id`,
`memRead_blockSize` and their write lemmas say the rest. -/
theorem idAndBlockSizeAreConstants : Obligations.IdAndBlockSizeAreConstants := by
  unfold Obligations.IdAndBlockSizeAreConstants
  refine fun s addr rest => ⟨fun ha => ⟨fun h => ?_, fun w h => ?_⟩,
    fun ha => ⟨fun h => ?_, fun w h => ?_⟩⟩
  · rw [step_alignedRead (by omega) h, ha, memRead_id]
    rfl
  · rw [step_alignedWrite (by omega) h, ha, memWrite_id]
  · rw [step_alignedRead (by omega) h, ha, memRead_blockSize]
    rfl
  · rw [step_alignedWrite (by omega) h, ha, memWrite_blockSize]

/-- Settles O5, by the kind of the step: only a host access or a reset touches OVERRUN. -/
theorem overrunIsStickyUntilClearedOrReset : Obligations.OverrunIsStickyUntilClearedOrReset := by
  unfold Obligations.OverrunIsStickyUntilClearedOrReset
  intro s t h
  rcases step_head_cases h with ⟨hm, he⟩ | ⟨hh, rfl⟩ | ⟨a, hh, rfl⟩
  · simp [engineStep_overrun he, hm.head_ne_access, hm.head_ne_reset]
  · simp [hh]
  · rw [busAccess_overrun_iff]
    simp [hh]

/-- Settles O48, by the kind of the step: a reset leaves UNINIT, a host access keeps ST and KS, and
the engine's turn enters CONSTRUCTED by a CONSTRUCT only and never leaves it. -/
theorem constructedIsTerminalUntilReset : Obligations.ConstructedIsTerminalUntilReset := by
  unfold Obligations.ConstructedIsTerminalUntilReset
  refine ⟨fun _ => rfl, fun s t h => ?_⟩
  rcases step_head_cases h with ⟨hm, he⟩ | ⟨hh, rfl⟩ | ⟨a, hh, rfl⟩
  · have hkeep := engineStep_keeps_constructed he
    refine ⟨fun hr => absurd hr hm.head_ne_reset, fun _ hc => hkeep hc, fun hs ht => ?_⟩
    obtain ⟨hp, hdec⟩ := engineStep_enters_constructed he hs ht
    exact ⟨hp, hm, hdec⟩
  · exact ⟨fun _ => rfl, fun hr => absurd hh hr, fun _ ht => by simp at ht⟩
  · obtain ⟨hst, hks⟩ := busAccess_st_ks { s with inputs := s.inputs.tail } a
    refine ⟨fun hr => by simp [hh] at hr, fun _ hc => ⟨hst.trans hc, hks⟩, fun hs ht => ?_⟩
    exact absurd (hs.symm.trans (hst.symm.trans ht)) (by decide)

/-- Settles O1: the constants are those of any state's ID and BLOCKSIZE, and the rest is the reset
state's own fields. -/
theorem resetClearsEveryVisibleRegister : Obligations.ResetClearsEveryVisibleRegister := by
  unfold Obligations.ResetClearsEveryVisibleRegister
  intro v
  refine ⟨rfl, memRead_id _, memRead_blockSize _, rfl, rfl, rfl, rfl, rfl, rfl, rfl, memRead_cmd _,
    fun j => ?_, fun j => ?_⟩ <;> simp [State.resetOf]
end

section
/-! SUPPORT. The register window: what each offset reads as, which writes it ignores, and the blocks
of bytes written to the input registers and read from the result registers (R63 to R69). -/

namespace Sys2Proof.Machine

/-! ### Reads by offset -/

/-- No register's value depends on the events still to come or on the port's answer. -/
@[simp] theorem memRead_inputs_response (s : State) (rest : List Event) (r : Option BusResponse)
    (off : Nat) : State.memRead { s with inputs := rest, response := r } off = s.memRead off := by
  unfold State.memRead
  cases regAt off <;> rfl

/-- A read of STATUS gives the STATUS word. -/
theorem memRead_status (s : State) : s.memRead 0x010 = s.statusWord := by
  rw [State.memRead, regAt_status, State.readReg]

/-- A read of a DATA_IN register gives the stored word (R64). -/
theorem memRead_dataIn (s : State) (j : Fin 16) (hj : j.val < s.variant.nw) :
    s.memRead (0x200 + 8 * j.val) = s.dataIn[j] := by
  rw [State.memRead, regAt_dataIn, State.readReg, readSlot, if_pos hj]

/-- A read of a DATA_OUT register gives the stored word (R64). -/
theorem memRead_dataOut (s : State) (j : Fin 16) (hj : j.val < s.variant.nw) :
    s.memRead (0x280 + 8 * j.val) = s.dataOut[j] := by
  rw [State.memRead, regAt_dataOut, State.readReg, readSlot, if_pos hj]

/-- A reserved slot of a file reads as 0 (R35). -/
theorem readSlot_reserved {v : Variant} (f : Vector Word 16) {j : Fin 16} (hj : v.nw ≤ j.val) :
    readSlot v f j = 0#64 := if_neg (by omega)

/-- A write of a reserved slot of a file is ignored (R35). -/
theorem writeSlot_reserved {v : Variant} (f : Vector Word 16) {j : Fin 16} (w : Word)
    (hj : v.nw ≤ j.val) : writeSlot v f j w = f := if_neg (by omega)

/-- The offset of the register that the map has at an aligned offset. -/
theorem offset_eq_of_regAt {off : Nat} {r : Reg} (h8 : off % 8 = 0) (h : regAt off = r)
    (hr : r ≠ .reserved) : off = r.offset := by
  subst h
  exact (regAt_offset off h8 hr).symm

/-- CMD, the key and tweak registers, the reserved slots and the reserved offsets read as 0 (R64). -/
theorem memRead_eq_zero (s : State) {off : Nat} (h8 : off % 8 = 0)
    (h : off = 0x018 ∨ (0x020 ≤ off ∧ off < 0x200) ∨
      (0x200 + 8 * s.variant.nw ≤ off ∧ off < 0x280) ∨ 0x280 + 8 * s.variant.nw ≤ off) :
    s.memRead off = 0#64 := by
  rw [State.memRead]
  have hoff := fun r (hr : regAt off = r) => offset_eq_of_regAt h8 hr
  cases hr : regAt off with
  | cmd | keyIn j | tweakIn j | reserved => rfl
  | id | blockSize | status =>
    have := hoff _ hr (by simp)
    simp only [Reg.offset] at this
    omega
  | dataIn j | dataOut j =>
    have := hoff _ hr (by simp)
    have := nw_le s.variant
    simp only [Reg.offset] at *
    exact readSlot_reserved _ (by omega)

/-! ### Writes by offset -/

/-- A write of STATUS clears OVERRUN by its bit 3 and does nothing else (R65). -/
theorem memWrite_status (s : State) (w : Word) :
    s.memWrite 0x010 w = { s with overrun := if w.getLsbD 3 then false else s.overrun } := by
  rw [State.memWrite, regAt_status, State.writeReg, State.writeStatus]
  split <;> rfl

/-- A write of CMD is a command request. -/
theorem memWrite_cmd (s : State) (w : Word) : s.memWrite 0x018 w = s.commandRequest w := by
  rw [State.memWrite, regAt_cmd, State.writeReg]

/-- A write of a key register. -/
theorem writeReg_keyIn (s : State) (j : Fin 16) (w : Word) (hj : j.val < s.variant.nw) :
    s.writeReg w (.keyIn j) = { s with keyIn := s.keyIn.set j w } := by
  rw [State.writeReg, State.writeKeyIn, writeSlot, if_pos hj]

/-- A write of a register of the source block. -/
theorem writeReg_dataIn (s : State) (j : Fin 16) (w : Word) (hj : j.val < s.variant.nw) :
    s.writeReg w (.dataIn j) = { s with dataIn := s.dataIn.set j w } := by
  rw [State.writeReg, State.writeDataIn, writeSlot, if_pos hj]

/-- Writes of ID, BLOCKSIZE, the result registers, the reserved slots and the reserved offsets are
ignored (R65). -/
theorem memWrite_ignored (s : State) (w : Word) {off : Nat} (h8 : off % 8 = 0)
    (h : off < 0x010 ∨ (0x020 ≤ off ∧ off < 0x100) ∨
      (0x100 + 8 * s.variant.nw ≤ off ∧ off < 0x180) ∨ (0x190 ≤ off ∧ off < 0x200) ∨
      0x200 + 8 * s.variant.nw ≤ off) :
    s.memWrite off w = s := by
  rw [State.memWrite]
  have hoff := fun r (hr : regAt off = r) => offset_eq_of_regAt h8 hr
  have hnw := nw_le s.variant
  cases hr : regAt off with
  | id | blockSize | dataOut j | reserved => rfl
  | status | cmd | tweakIn j =>
    have := hoff _ hr (by simp)
    simp only [Reg.offset] at this
    omega
  | keyIn j =>
    have := hoff _ hr (by simp)
    simp only [Reg.offset] at this
    rw [State.writeReg, State.writeKeyIn, writeSlot_reserved _ _ (by omega)]
  | dataIn j =>
    have := hoff _ hr (by simp)
    simp only [Reg.offset] at this
    rw [State.writeReg, State.writeDataIn, writeSlot_reserved _ _ (by omega)]

/-- A command request neither reads nor changes the events still to come. -/
theorem commandRequest_inputs (s : State) (w : Word) (rest : List Event) :
    State.commandRequest w { s with inputs := rest } =
      { s.commandRequest w with inputs := rest } := by
  unfold State.commandRequest
  split <;> rfl

/-! ### Refused accesses -/

/-- An access that the window does not accept is answered with BusError and does nothing else
(R220). -/
theorem step_refused {s : State} {a : BusAccess} {rest : List Event} (ha : accepts a = false)
    (h : s.inputs = .access a :: rest) :
    step s = .next { s with inputs := rest, response := some .busError } := by
  rw [step_access h, busAccess_refused _ a ha]

/-! ### Blocks of words and bytes -/

/-- The words `f j` written into a file at the slots `j` of a list, in its order. -/
def writeSlots (f : Fin 16 → Word) (js : List (Fin 16)) (file : Vector Word 16) :
    Vector Word 16 :=
  js.foldl (fun g (j : Fin 16) => g.set j (f j)) file

/-- A slot of a file after writes at a list of slots. -/
theorem writeSlots_get (f : Fin 16 → Word) (js : List (Fin 16)) (file : Vector Word 16)
    (i : Fin 16) : (writeSlots f js file)[i] = if i ∈ js then f i else file[i] := by
  induction js generalizing file with
  | nil => simp [writeSlots]
  | cons j js ih =>
    have hset : (file.set j (f j))[i] = if i = j then f i else file[i] := by
      by_cases hij : i = j
      · simp [hij]
      · simp [hij, Vector.getElem_set_ne, Fin.val_ne_of_ne (Ne.symm hij)]
    rw [writeSlots, List.foldl_cons, ← writeSlots, ih, hset]
    by_cases hij : i = j <;> simp [hij]

/-- The slots that R100 writes are those below NW. -/
theorem mem_usedSlots (v : Variant) (j : Fin 16) :
    j ∈ (List.finRange 16).take v.nw ↔ j.val < v.nw := by
  revert j
  cases v <;> decide

/-- Words written into the slots below NW in order are a block written into the file. -/
theorem writeSlots_usedSlots (v : Variant) (ws : List Word) (file : Vector Word 16) :
    writeSlots (fun j => ws.getD j.val 0#64) ((List.finRange 16).take v.nw) file =
      writeBlock v file ws := by
  ext i hi : 1
  rw [writeBlock_get]
  exact (writeSlots_get _ _ file ⟨i, hi⟩).trans (if_congr (mem_usedSlots v ⟨i, hi⟩) rfl rfl)

/-- A run of register writes at a list of slots of one file. `mk` is the state with that file, those
events and that answer; `hstep` is the step of one write. -/
theorem run_writes (slot : Fin 16 → Reg) (f : Fin 16 → Word) (rest : List Event)
    (mk : Vector Word 16 → List Event → Option BusResponse → State) (js : List (Fin 16))
    (hstep : ∀ j ∈ js, ∀ file evs ans, step (mk file (wr (slot j) (f j) :: evs) ans) =
      .next (mk (file.set j (f j)) evs (some .ok)))
    (file : Vector Word 16) (ans : Option BusResponse) :
    core.run js.length (mk file (js.map (fun j => wr (slot j) (f j)) ++ rest) ans) =
      .next (mk (writeSlots f js file) rest (if js = [] then ans else some .ok)) := by
  induction js generalizing file ans with
  | nil => rfl
  | cons j js ih =>
    have hhead := hstep j (by simp) file (js.map (fun j => wr (slot j) (f j)) ++ rest) ans
    rw [List.length_cons, List.map_cons, List.cons_append, run_succ _ hhead,
      ih (fun i hi => hstep i (List.mem_cons_of_mem j hi))]
    simp [writeSlots]

/-- The slots that R100 writes are NW. -/
theorem usedSlots_length (v : Variant) : ((List.finRange 16).take v.nw).length = v.nw := by
  cases v <;> decide

/-- NW writes of a file's slots in order write a block into it. -/
theorem run_wrSlots (slot : Fin 16 → Reg) (v : Variant) (ws : List Word) (rest : List Event)
    (mk : Vector Word 16 → List Event → Option BusResponse → State)
    (hstep : ∀ j : Fin 16, j.val < v.nw → ∀ w file evs ans,
      step (mk file (wr (slot j) w :: evs) ans) = .next (mk (file.set j w) evs (some .ok)))
    (file : Vector Word 16) (ans : Option BusResponse) :
    core.run v.nw (mk file (wrSlots slot v ws ++ rest) ans) =
      .next (mk (writeBlock v file ws) rest (some .ok)) := by
  have hrun := run_writes slot (fun j => ws.getD j.val 0#64) rest mk _
    (fun j hj => hstep j ((mem_usedSlots v j).mp hj) _) file ans
  have hne : (List.finRange 16).take v.nw ≠ [] := by cases v <;> decide
  rwa [usedSlots_length, writeSlots_usedSlots, if_neg hne] at hrun

/-- LDKEY loads the key registers (R100). -/
theorem run_ldKey {s : State} {ws : List Word} {rest : List Event}
    (h : s.inputs = wrSlots .keyIn s.variant ws ++ rest) :
    core.run s.variant.nw s = .next { s with
      keyIn := writeBlock s.variant s.keyIn ws, inputs := rest, response := some .ok } := by
  have hrun := run_wrSlots .keyIn s.variant ws rest
    (fun key evs ans => { s with keyIn := key, inputs := evs, response := ans })
    (fun j hj w key evs ans => by rw [step_wr rfl, writeReg_keyIn]; exact hj) s.keyIn s.response
  rwa [← h] at hrun

/-- LDDATA loads the source block (R100). -/
theorem run_ldData {s : State} {ws : List Word} {rest : List Event}
    (h : s.inputs = wrSlots .dataIn s.variant ws ++ rest) :
    core.run s.variant.nw s = .next { s with
      dataIn := writeBlock s.variant s.dataIn ws, inputs := rest, response := some .ok } := by
  have hrun := run_wrSlots .dataIn s.variant ws rest
    (fun src evs ans => { s with dataIn := src, inputs := evs, response := ans })
    (fun j hj w src evs ans => by rw [step_wr rfl, writeReg_dataIn]; exact hj) s.dataIn s.response
  rwa [← h] at hrun

/-- Both words of a file of two slots written in order. -/
theorem set_zero_set_one (file : Vector Word 2) (a b : Word) :
    (file.set 0 a).set 1 b = #v[a, b] := by
  ext i hi : 1
  interval_cases i <;> simp

/-- LDTWEAK loads the tweak registers (R100). -/
theorem run_ldTweak {s : State} {t0 t1 : Word} {rest : List Event}
    (h : s.inputs = wr (.tweakIn 0) t0 :: wr (.tweakIn 1) t1 :: rest) :
    core.run 2 s = .next { s with
      tweakIn := #v[t0, t1], inputs := rest, response := some .ok } := by
  rw [run_succ 1 (step_wr h), run_succ 0 (step_wr rfl), ← set_zero_set_one s.tweakIn t0 t1]
  rfl

/-- A slot of a file after the words of a byte sequence are written into it as a block. -/
theorem writeBlock_leWords_get (v : Variant) (file : Vector Word 16) (bs : List Byte)
    (j : Fin 16) :
    (writeBlock v file (leWords bs v.nw))[j] =
      if j.val < v.nw then leWord bs j.val else file[j] := by
  refine (writeBlock_get v file _ j.val j.isLt).trans ?_
  split
  next hj => exact leWords_getD bs v.nw j.val hj
  next => rfl

/-- A key given as bytes and written in order (R67). -/
theorem run_writeKeyBytes {s : State} {bs : List Byte} {rest : List Event}
    (h : s.inputs = writeKeyBytes s.variant bs ++ rest) :
    ∃ key : Vector Word 16,
      (∀ j : Fin 16, key[j] = if j.val < s.variant.nw then leWord bs j.val else s.keyIn[j]) ∧
      core.run s.variant.nw s = .next { s with
        keyIn := key, inputs := rest, response := some .ok } :=
  ⟨_, writeBlock_leWords_get s.variant s.keyIn bs, run_ldKey h⟩

/-- A source block given as bytes and written in order (R67). -/
theorem run_writeSourceBytes {s : State} {bs : List Byte} {rest : List Event}
    (h : s.inputs = writeSourceBytes s.variant bs ++ rest) :
    ∃ src : Vector Word 16,
      (∀ j : Fin 16, src[j] = if j.val < s.variant.nw then leWord bs j.val else s.dataIn[j]) ∧
      core.run s.variant.nw s = .next { s with
        dataIn := src, inputs := rest, response := some .ok } :=
  ⟨_, writeBlock_leWords_get s.variant s.dataIn bs, run_ldData h⟩

/-- Byte `i` of a sequence, as a lane of the word it falls in. -/
theorem byteLane_leWord_div_mod (bs : List Byte) (i : Nat) :
    byteLane (leWord bs (i / 8)) (i % 8) = bs.getD i 0#8 := by
  rw [byteLane_leWord bs _ _ (Nat.mod_lt _ (by decide)), Nat.div_add_mod]

/-- The window's bytes at 0x100 are the bytes whose words KEY_IN holds (R67). -/
theorem windowByte_keyIn_of_words {s : State} {bs : List Byte}
    (h : ∀ j : Fin 16, j.val < s.variant.nw → s.keyIn[j] = leWord bs j.val) {i : Nat}
    (hi : i < 8 * s.variant.nw) : s.windowByte (0x100 + i) = bs.getD i 0#8 := by
  have hnw := nw_le s.variant
  have hbyte := windowByte_keyIn s ⟨i / 8, by omega⟩ (i % 8) (by omega) (by simp only; omega)
  rwa [h _ (by simp only; omega), byteLane_leWord_div_mod, Nat.div_add_mod] at hbyte

/-- The window's bytes at 0x200 are the bytes whose words DATA_IN holds (R67). -/
theorem windowByte_dataIn_of_words {s : State} {bs : List Byte}
    (h : ∀ j : Fin 16, j.val < s.variant.nw → s.dataIn[j] = leWord bs j.val) {i : Nat}
    (hi : i < 8 * s.variant.nw) : s.windowByte (0x200 + i) = bs.getD i 0#8 := by
  have hnw := nw_le s.variant
  have hbyte := windowByte_dataIn s ⟨i / 8, by omega⟩ (i % 8) (by omega) (by simp only; omega)
  rwa [h _ (by simp only; omega), byteLane_leWord_div_mod, Nat.div_add_mod] at hbyte

/-- The window's bytes at 0x180 are the bytes whose words TWEAK_IN holds (R67). -/
theorem windowByte_tweakIn_of_words {s : State} {bs : List Byte}
    (h : ∀ j : Fin 2, s.tweakIn[j] = leWord bs j.val) {i : Nat} (hi : i < 16) :
    s.windowByte (0x180 + i) = bs.getD i 0#8 := by
  have hbyte := windowByte_tweakIn s ⟨i / 8, by omega⟩ (i % 8) (by omega)
  rwa [h, byteLane_leWord_div_mod, Nat.div_add_mod] at hbyte

/-- The result is one block of bytes. -/
@[simp] theorem resultBytes_length (s : State) : s.resultBytes.length = 8 * s.variant.nw := by
  rw [State.resultBytes, leBytes_length, usedWords_length]

/-- Byte `8j + b` of the result is byte lane `b` of DATA_OUT[j] (R67). -/
theorem resultBytes_getD (s : State) (j : Fin 16) (b : Nat) (hj : j.val < s.variant.nw)
    (hb : b < 8) : s.resultBytes.getD (8 * j.val + b) 0#8 = byteLane s.dataOut[j] b := by
  rw [State.resultBytes, leBytes_getD _ _ _ (by rwa [usedWords_length]) hb, usedWords_get _ _ j hj]

end Sys2Proof.Machine

open Sys2Proof Sys2Proof.Machine

/-- Settles O34: an aligned read answers with the register's value and changes nothing else, and the
`memRead_` lemmas say that value for each part of the map. -/
theorem readReturnsTheRegisterOfTheMap : Obligations.ReadReturnsTheRegisterOfTheMap := by
  unfold Obligations.ReadReturnsTheRegisterOfTheMap
  intro s addr rest h h8
  refine ⟨_, step_alignedRead h8 h, fun ha => ?_, fun ha => ?_, fun ha => ?_, fun j ha hj => ?_,
    fun j ha hj => ?_, memRead_eq_zero s (by omega)⟩
  · rw [ha]; rfl
  · rw [ha]; rfl
  · rw [ha, memRead_status]
  · rw [ha, memRead_dataIn s j hj]
  · rw [ha, memRead_dataOut s j hj]

/-- Settles O35: an aligned write is the register's own write, and the `memWrite_` and `writeReg_`
lemmas say what that is for each part of the map. -/
theorem writeActsOnTheRegisterOfTheMap : Obligations.WriteActsOnTheRegisterOfTheMap := by
  unfold Obligations.WriteActsOnTheRegisterOfTheMap
  intro s addr w rest h h8
  rw [step_alignedWrite h8 h]
  refine ⟨fun ha => ?_, fun ha => ?_, fun j ha hj => ?_, fun j ha => ?_, fun j ha hj => ?_,
    fun ha => ?_⟩
  · rw [ha, memWrite_status]
  · rw [ha, memWrite_cmd, commandRequest_inputs]
  · rw [ha, State.memWrite, regAt_keyIn, writeReg_keyIn { s with inputs := rest } j w hj]
  · rw [ha, State.memWrite, regAt_tweakIn, State.writeReg, State.writeTweakIn]
  · rw [ha, State.memWrite, regAt_dataIn, writeReg_dataIn { s with inputs := rest } j w hj]
  · rw [memWrite_ignored { s with inputs := rest } w (by omega) ha]

/-- Settles O37: a read, answered or refused, changes the port's answer only, which no register's
value depends on. -/
theorem readsAreIdempotent : Obligations.ReadsAreIdempotent := by
  unfold Obligations.ReadsAreIdempotent
  intro s t addr rest h hst
  by_cases h8 : addr % 8 = 0
  · rw [step_alignedRead h8 h] at hst
    cases hst
    exact ⟨memRead_inputs_response s _ _, _, step_alignedRead h8 rfl, by simp⟩
  · have ha : accepts ⟨addr, .bytes 8, .read⟩ = false := by
      simpa [h8] using (accepts_iff ⟨addr, .bytes 8, .read⟩).not
    rw [step_refused ha h] at hst
    cases hst
    exact ⟨memRead_inputs_response s _ _, _, step_refused ha rfl, rfl, rfl⟩

/-- Settles O54: the three loads are runs of register writes (`run_ldKey`, `run_ldTweak`,
`run_ldData`), and the bytes of a word are the given bytes it was made of. -/
theorem byteInterfaceMapsOntoTheRegisters : Obligations.ByteInterfaceMapsOntoTheRegisters := by
  unfold Obligations.ByteInterfaceMapsOntoTheRegisters
  refine fun s bs rest => ⟨fun _ h => ?_, fun _ h => ?_, fun _ h => ?_, resultBytes_length s,
    fun j b hj hb => ?_⟩
  · obtain ⟨key, hkey, hrun⟩ := run_writeKeyBytes h
    exact ⟨key, hkey, hrun, fun i hi => windowByte_keyIn_of_words (s := { s with keyIn := key })
      (fun j hj => (hkey j).trans (if_pos hj)) hi⟩
  · exact ⟨run_ldTweak h, fun i hi => windowByte_tweakIn_of_words
      (s := { s with tweakIn := #v[leWord bs 0, leWord bs 1] })
      (fun j => by fin_cases j <;> rfl) hi⟩
  · obtain ⟨src, hsrc, hrun⟩ := run_writeSourceBytes h
    exact ⟨src, hsrc, hrun, fun i hi => windowByte_dataIn_of_words (s := { s with dataIn := src })
      (fun j hj => (hsrc j).trans (if_pos hj)) hi⟩
  · rw [windowByte_dataOut s j b hb hj, resultBytes_getD s j b hj hb]
    exact ⟨rfl, rfl⟩
end

section
/-! SUPPORT. Decoding a command word by its fields, and the mask of R96 read as three of them
(R91, R95, R96). -/

namespace Sys2Proof

/-! ### Decoding by fields -/

/-- A word decodes to a command exactly when its reserved fields are 0 and its OP and its two
lengths are the command's (R92, R96). -/
theorem decode_eq_ok_iff (w : Word) (i : Instr) :
    decode w = .ok i ↔ fieldRsv0 w = 0#4 ∧ fieldRsv1 w = 0#24 ∧ fieldOp w = i.op ∧
      fieldLenA w = i.lenA ∧ fieldLenB w = i.lenB := by
  unfold decode
  split
  next h => simp only [reduceCtorEq, false_iff]; tauto
  next h =>
    have hrsv : fieldRsv0 w = 0#4 ∧ fieldRsv1 w = 0#24 := by tauto
    cases i <;> split_ifs <;> simp_all [Instr.op, Instr.lenA, Instr.lenB]

/-- A word is ILLEGAL exactly when a reserved field is not 0 or its OP is none of the three commands'
(R95). -/
theorem decode_eq_error_iff (w : Word) :
    (∃ r, decode w = .error r) ↔ fieldRsv0 w ≠ 0#4 ∨ fieldRsv1 w ≠ 0#24 ∨
      (fieldOp w ≠ 0x1#4 ∧ fieldOp w ≠ 0x2#4 ∧ fieldOp w ≠ 0x3#4) := by
  unfold decode
  split
  next h => simp only [Except.error.injEq, exists_eq', true_iff]; tauto
  next h => split_ifs <;> simp_all

/-- The reserved OP values are 0x0 and 0x4 to 0xF (R92, R95). -/
theorem op_reserved_iff (op : BitVec 4) :
    (op ≠ 0x1#4 ∧ op ≠ 0x2#4 ∧ op ≠ 0x3#4) ↔ op = 0#4 ∨ 4 ≤ op.toNat := by
  revert op
  decide

/-! ### The mask of R96 -/

/-- The conjunction of two command words is taken field by field. -/
theorem packCommand_and (r r' : BitVec 24) (b b' a a' : BitVec 16) (q q' o o' : BitVec 4) :
    packCommand r b a q o &&& packCommand r' b' a' q' o' =
      packCommand (r &&& r') (b &&& b') (a &&& a') (q &&& q') (o &&& o') := by
  simp only [packCommand, ← BitVec.and_append]

/-- Command words are equal exactly when their fields are (R91). -/
theorem packCommand_inj {r r' : BitVec 24} {b b' a a' : BitVec 16} {q q' o o' : BitVec 4} :
    packCommand r b a q o = packCommand r' b' a' q' o' ↔
      r = r' ∧ b = b' ∧ a = a' ∧ q = q' ∧ o = o' := by
  refine ⟨fun h => ⟨?_, ?_, ?_, ?_, ?_⟩, fun ⟨hr, hb, ha, hq, ho⟩ => by rw [hr, hb, ha, hq, ho]⟩
  · simpa using congrArg fieldRsv1 h
  · simpa using congrArg fieldLenB h
  · simpa using congrArg fieldLenA h
  · simpa using congrArg fieldRsv0 h
  · simpa using congrArg fieldOp h

/-- The mask of R96 keeps RSV1, RSV0 and OP and clears the two lengths. -/
theorem and_tableMask (w : Word) :
    w &&& 0xFFFFFF00000000FF#64 = packCommand (fieldRsv1 w) 0#16 0#16 (fieldRsv0 w) (fieldOp w) := by
  have hmask : 0xFFFFFF00000000FF#64 =
      packCommand (BitVec.allOnes 24) 0#16 0#16 (BitVec.allOnes 4) (BitVec.allOnes 4) := by decide
  conv_lhs => rw [← pack_fields w, hmask, packCommand_and]
  simp only [BitVec.and_allOnes, BitVec.and_zero]

/-- A command word with every field but OP clear has OP's value. -/
theorem packCommand_op (op : BitVec 4) : packCommand 0#24 0#16 0#16 0#4 op = op.setWidth 64 := by
  revert op
  decide

/-- A word under the mask of R96 is a command's OP alone exactly when the word decodes to that command
with the word's own lengths. -/
theorem decode_eq_ok_iff_and_tableMask {w : Word} {i : Instr} (ha : i.lenA = fieldLenA w)
    (hb : i.lenB = fieldLenB w) :
    decode w = .ok i ↔ w &&& 0xFFFFFF00000000FF#64 = i.op.setWidth 64 := by
  rw [decode_eq_ok_iff, and_tableMask, ← packCommand_op, packCommand_inj, ha, hb]
  tauto

end Sys2Proof

open Sys2Proof

/-- Settles O7: under the mask a word is its reserved fields and its OP (`and_tableMask`), which with
the lengths are what `decode` reads, and the OP values of no command are the reserved ones. -/
theorem decodeSelectsByTheTableMask : Obligations.DecodeSelectsByTheTableMask := by
  unfold Obligations.DecodeSelectsByTheTableMask
  refine fun w => ⟨decode_eq_ok_iff_and_tableMask (i := .construct _ _) rfl rfl,
    decode_eq_ok_iff_and_tableMask (i := .encrypt _ _) rfl rfl,
    decode_eq_ok_iff_and_tableMask (i := .decrypt _ _) rfl rfl, ?_⟩
  rw [decode_eq_error_iff, op_reserved_iff]
  rfl
end

section
/-! SUPPORT. The words of the schedule: KEYEXT, TWEAKEXT and SUBKEY word by word (R123 to R127), and
the proof about them. -/

namespace Sys2Proof.Machine

/-- Every block has room for the three positions SUBKEY adds to. -/
theorem four_le_nw (v : Variant) : 4 ≤ v.nw := by cases v <;> decide

/-- The words of KEYEXT: the key words, then the extension word (R123). -/
theorem keyExt_getD (k : List Word) {j : Nat} (hj : j ≤ k.length) :
    (keyExt k).getD j 0#64 =
      if j = k.length then k.foldr (fun w x => w ^^^ x) keyConst else k.getD j 0#64 := by
  rw [keyExt]
  split
  next h =>
    have hxor : k.foldl (fun x w => x ^^^ w) keyConst = k.foldr (fun w x => w ^^^ x) keyConst :=
      List.foldl_eq_foldr (f := (· ^^^ ·))
    rw [List.getD_append_right _ _ _ _ (by omega), hxor, h, Nat.sub_self, List.getD_cons_zero]
  next h => exact List.getD_append _ _ _ _ (by omega)

/-- The tweak word SUBKEY adds in group `s` at the position third from the end (R125). -/
theorem tweakExt_getD_mod (t : Vector Word 2) (s : Nat) :
    (tweakExt t).getD (s % 3) 0#64 =
      if s % 3 = 0 then t[0] else if s % 3 = 1 then t[1] else t[0] ^^^ t[1] := by
  obtain h | h | h : s % 3 = 0 ∨ s % 3 = 1 ∨ s % 3 = 2 := by omega
  all_goals simp [h, tweakExt]

/-- The tweak word SUBKEY adds in group `s` at the position second from the end (R125). -/
theorem tweakExt_getD_succ_mod (t : Vector Word 2) (s : Nat) :
    (tweakExt t).getD ((s + 1) % 3) 0#64 =
      if s % 3 = 0 then t[1] else if s % 3 = 1 then t[0] ^^^ t[1] else t[0] := by
  obtain h | h | h : s % 3 = 0 ∨ s % 3 = 1 ∨ s % 3 = 2 := by omega
  all_goals simp [h, tweakExt, Nat.add_mod s 1 3]

/-- SUBKEY is an extended-key word plus one addend, which is zero before the last three positions
(R125). -/
theorem subkey_eq_add (v : Variant) (kx tx : List Word) (s i : Nat) :
    subkey v kx tx s i = kx.getD ((s + i) % (v.nw + 1)) 0#64 +
      (if i + 3 = v.nw then tx.getD (s % 3) 0#64
        else if i + 2 = v.nw then tx.getD ((s + 1) % 3) 0#64
        else if i + 1 = v.nw then BitVec.ofNat 64 s
        else 0#64) := by
  have hnw := four_le_nw v
  have h3 : i = v.nw - 3 ↔ i + 3 = v.nw := by omega
  have h2 : i = v.nw - 2 ↔ i + 2 = v.nw := by omega
  have h1 : i = v.nw - 1 ↔ i + 1 = v.nw := by omega
  simp only [subkey, h3, h2, h1]
  split_ifs
  all_goals simp

/-- The words of SCHEDULE are SUBKEY's (R127). -/
theorem ksWord_schedule (v : Variant) (k : List Word) (t : Vector Word 2) {s i : Nat}
    (hs : s < v.ns) (hi : i < v.nw) :
    ksWord (schedule v k t) s i = subkey v (keyExt k) (tweakExt t) s i := by
  simp [ksWord, schedule, subkeyGroup, List.getD_eq_getElem?_getD, hs, hi]

end Sys2Proof.Machine

open Sys2Proof Sys2Proof.Machine

/-- Settles O24: a word of the schedule is SUBKEY's (`ksWord_schedule`), a sum (`subkey_eq_add`) whose
two terms are words of KEYEXT and TWEAKEXT. -/
theorem scheduleFollowsTheSubkeyFormula : Obligations.ScheduleFollowsTheSubkeyFormula := by
  unfold Obligations.ScheduleFollowsTheSubkeyFormula
  intro v k t hk
  refine ⟨schedule_length v k t, schedule_group_length v k t, fun s i hs hi => ?_⟩
  have hmod : (s + i) % (v.nw + 1) ≤ k.length :=
    hk ▸ Nat.le_of_lt_succ (Nat.mod_lt _ (Nat.succ_pos _))
  rw [ksWord_schedule v k t (Nat.lt_succ_of_le hs) hi, subkey_eq_add, keyExt_getD k hmod,
    tweakExt_getD_mod, tweakExt_getD_succ_mod, hk, keyConst]
end

section
/-! SUPPORT. INJECT and EJECT, the rounds undone, and the runs on V and D as folds over the round
numbers (R147 to R156), with the proofs about whole blocks. -/

namespace Sys2Proof.Machine

/-! ### INJECT and EJECT -/

/-- A word of an injected block (R151). -/
theorem inject_getD (ks : List (List Word)) (s : Nat) {x : List Word} {i : Nat}
    (hi : i < x.length) : (inject ks s x).getD i 0#64 = x.getD i 0#64 + ksWord ks s i := by
  simp [inject, List.getD_eq_getElem?_getD, hi]

/-- A word of an ejected block (R151). -/
theorem eject_getD (ks : List (List Word)) (s : Nat) {x : List Word} {i : Nat}
    (hi : i < x.length) : (eject ks s x).getD i 0#64 = x.getD i 0#64 - ksWord ks s i := by
  simp [eject, List.getD_eq_getElem?_getD, hi]

@[simp] theorem eject_inject (ks : List (List Word)) (s : Nat) (x : List Word) :
    eject ks s (inject ks s x) = x := by
  apply List.ext_getElem
  · simp
  · simp [inject, eject]

@[simp] theorem inject_eject (ks : List (List Word)) (s : Nat) (x : List Word) :
    inject ks s (eject ks s x) = x := by
  apply List.ext_getElem
  · simp
  · simp [inject, eject]

@[simp] theorem ejectAfter_injectBefore (ks : List (List Word)) (d : Nat) (x : List Word) :
    ejectAfter ks d (injectBefore ks d x) = x := by
  unfold ejectAfter injectBefore
  split <;> simp

@[simp] theorem injectBefore_ejectAfter (ks : List (List Word)) (d : Nat) (x : List Word) :
    injectBefore ks d (ejectAfter ks d x) = x := by
  unfold ejectAfter injectBefore
  split <;> simp

/-! ### MIX and UNMIX -/

/-- Bit `i` of a rotated word comes from `r` places below, counted modulo 64 (R13). -/
theorem getLsbD_rotl (x : Word) (r : Nat) {i : Nat} (hi : i < 64) :
    (rotl x r).getLsbD i = x.getLsbD ((i + (64 - r % 64)) % 64) := by
  rw [rotl_eq_rotateLeft, BitVec.getLsbD_rotateLeft]
  by_cases hir : i < r % 64
  · have hmod : (i + (64 - r % 64)) % 64 = 64 - r % 64 + i := by omega
    simp [hir, hmod]
  · have hmod : (i + (64 - r % 64)) % 64 = i - r % 64 := by omega
    simp [hir, hi, hmod]

/-- Two rotations whose amounts make whole turns. -/
theorem rotl_rotl_of_add_mod (x : Word) {a b : Nat} (h : (a + b) % 64 = 0) :
    rotl (rotl x a) b = x := by
  refine BitVec.eq_of_getLsbD_eq fun i hi => ?_
  rw [getLsbD_rotl _ _ hi, getLsbD_rotl _ _ (Nat.mod_lt _ (by decide))]
  congr 1
  omega

@[simp] theorem rotr_rotl (x : Word) (r : Nat) : rotr (rotl x r) r = x :=
  rotl_rotl_of_add_mod x (by omega)

@[simp] theorem rotl_rotr (x : Word) (r : Nat) : rotl (rotr x r) r = x :=
  rotl_rotl_of_add_mod x (by omega)

/-- UNMIX undoes MIX (R149): b' XOR a' is the rotated b. -/
theorem unmix_mix (a b : Word) (r : Nat) : unmix (mix a b r).1 (mix a b r).2 r = (a, b) := by
  simp [mix, unmix]

/-- MIX undoes UNMIX (R149). -/
theorem mix_unmix (a b : Word) (r : Nat) : mix (unmix a b r).1 (unmix a b r).2 r = (a, b) := by
  simp [mix, unmix]

/-- Where `g` undoes `f` on a pair, it does on every pair of a block. -/
theorem mapPairs_mapPairs {f g : Word → Word → Nat → Word × Word}
    (hgf : ∀ a b r, g (f a b r).1 (f a b r).2 r = (a, b)) :
    ∀ (rs : List Nat) (x : List Word), x.length = 2 * rs.length →
      mapPairs g rs (mapPairs f rs x) = x
  | [], [], _ => rfl
  | [], _ :: _, h => by simp at h
  | _ :: _, [], h => by simp at h
  | _ :: _, [_], h => by simp at h; omega
  | _ :: rs, _ :: _ :: ws, h => by
    have ih := mapPairs_mapPairs hgf rs ws (by simp at h; omega)
    simp [mapPairs, hgf, ih]

/-- A row of the rotation table covers a block (R145). -/
theorem nw_eq_two_mul_rotRow_length (v : Variant) (d : Nat) : v.nw = 2 * (rotRow v d).length := by
  rw [rotRow_length]
  cases v <;> rfl

/-! ### PERMUTE and UNPERMUTE -/

/-- A block in its own order. -/
theorem reorder_range (f : List Word) : reorder (List.range f.length) f = f := by
  apply List.ext_getElem
  · simp
  · simp +contextual [reorder]

/-- Reordering twice is reordering once, by the table of the composed indices. -/
theorem reorder_reorder {t t' : List Nat} (ht : ∀ p ∈ t, p < t'.length) (f : List Word) :
    reorder t (reorder t' f) = reorder (t.map fun p => t'.getD p 0) f := by
  simp only [reorder, List.map_map]
  refine List.map_congr_left fun p hp => ?_
  simp [List.getD_eq_getElem?_getD, ht p hp]

/-- UNPERMUTE undoes PERMUTE on a block (R147, R150). -/
theorem unpermute_permute (v : Variant) {f : List Word} (hf : f.length = v.nw) :
    unpermute v (permute v f) = f := by
  have hbound : ∀ p ∈ permInvTable v, p < (permTable v).length := by cases v <;> decide
  have htable : (permInvTable v).map (fun p => (permTable v).getD p 0) = List.range v.nw := by
    cases v <;> decide
  rw [unpermute, permute, reorder_reorder hbound, htable, ← hf, reorder_range]

/-- PERMUTE undoes UNPERMUTE on a block (R147, R150). -/
theorem permute_unpermute (v : Variant) {f : List Word} (hf : f.length = v.nw) :
    permute v (unpermute v f) = f := by
  have hbound : ∀ p ∈ permTable v, p < (permInvTable v).length := by cases v <;> decide
  have htable : (permTable v).map (fun p => (permInvTable v).getD p 0) = List.range v.nw := by
    cases v <;> decide
  rw [unpermute, permute, reorder_reorder hbound, htable, ← hf, reorder_range]

/-! ### One round and its inverse -/

@[simp] theorem unroundStep_length (v : Variant) (d : Nat) (x : List Word) :
    (unroundStep v d x).length = v.nw := by
  have hlen : (unpermute v x).length = 2 * (rotRow v d).length := by
    rw [unpermute_length, ← nw_eq_two_mul_rotRow_length]
  rw [unroundStep, mapPairs_length _ _ _ hlen, unpermute_length]

/-- UNROUND undoes ROUND on a block (R153). -/
theorem unroundStep_roundStep (v : Variant) (d : Nat) {x : List Word} (hx : x.length = v.nw) :
    unroundStep v d (roundStep v d x) = x := by
  have hpairs := hx.trans (nw_eq_two_mul_rotRow_length v d)
  rw [unroundStep, roundStep, unpermute_permute v ((mapPairs_length _ _ _ hpairs).trans hx),
    mapPairs_mapPairs unmix_mix _ _ hpairs]

/-- ROUND undoes UNROUND on a block (R153). -/
theorem roundStep_unroundStep (v : Variant) (d : Nat) {x : List Word} (hx : x.length = v.nw) :
    roundStep v d (unroundStep v d x) = x := by
  have hpairs : (unpermute v x).length = 2 * (rotRow v d).length := by
    rw [unpermute_length, ← nw_eq_two_mul_rotRow_length]
  rw [roundStep, unroundStep, mapPairs_mapPairs mix_unmix _ _ hpairs, permute_unpermute v hx]

/-- The body of R154's loop: round `d` with its injection. -/
def encBody (v : Variant) (ks : List (List Word)) (y : List Word) (d : Nat) : List Word :=
  roundStep v d (injectBefore ks d y)

/-- The body of R155's loop: round `d` undone with its ejection. -/
def decBody (v : Variant) (ks : List (List Word)) (y : List Word) (d : Nat) : List Word :=
  ejectAfter ks d (unroundStep v d y)

@[simp] theorem encBody_length (v : Variant) (ks : List (List Word)) (y : List Word) (d : Nat) :
    (encBody v ks y d).length = v.nw := by simp [encBody]

@[simp] theorem decBody_length (v : Variant) (ks : List (List Word)) (y : List Word) (d : Nat) :
    (decBody v ks y d).length = v.nw := by simp [decBody]

/-- R155's body undoes R154's on a block: the rounds cancel inside, the subkeys outside. -/
theorem decBody_encBody (v : Variant) (ks : List (List Word)) (d : Nat) {y : List Word}
    (hy : y.length = v.nw) : decBody v ks (encBody v ks y d) d = y := by
  rw [decBody, encBody, unroundStep_roundStep v d (by simpa using hy), ejectAfter_injectBefore]

/-- R154's body undoes R155's on a block. -/
theorem encBody_decBody (v : Variant) (ks : List (List Word)) (d : Nat) {y : List Word}
    (hy : y.length = v.nw) : encBody v ks (decBody v ks y d) d = y := by
  rw [decBody, encBody, injectBefore_ejectAfter, roundStep_unroundStep v d hy]

/-! ### The loops as folds -/

/-- Where `g` undoes `f` for each index, folding `g` over the reversed indices undoes the fold of
`f`. -/
theorem foldl_reverse_foldl {α β : Type} {P : α → Prop} {f g : α → β → α}
    (hf : ∀ y d, P y → P (f y d)) (hgf : ∀ y d, P y → g (f y d) d = y) :
    ∀ (ds : List β) {x : α}, P x → ds.reverse.foldl g (ds.foldl f x) = x
  | [], _, _ => rfl
  | d :: ds, x, hx => by
    have ih := foldl_reverse_foldl hf hgf ds (hf x d hx)
    simp [ih, hgf x d hx]

/-- `n` encryption passes from D = 0 are the rounds 0 to n - 1 ascending (R154). -/
theorem encRounds_v (v : Variant) (ks : List (List Word)) (n : Nat) (x : List Word) :
    (Datapath.encRounds v ks n ⟨x, 0⟩).v = (List.range n).foldl (encBody v ks) x := by
  induction n with
  | zero => rfl
  | succ n ih =>
    have hd : (Datapath.encRounds v ks n ⟨x, 0⟩).d = n := by simp [encRounds_d]
    rw [encRounds_succ, Datapath.encRound, ih, hd, List.range_succ, List.foldl_append]
    rfl

/-- `n` decryption passes from D = n - 1 are the rounds n - 1 to 0 descending (R155). -/
theorem decRounds_v (v : Variant) (ks : List (List Word)) (n : Nat) (x : List Word) :
    (Datapath.decRounds v ks n ⟨x, n - 1⟩).v = (List.range n).reverse.foldl (decBody v ks) x := by
  induction n generalizing x with
  | zero => rfl
  | succ n ih =>
    rw [Datapath.decRounds, Datapath.decRound, Nat.add_sub_cancel, ih, List.range_succ,
      List.reverse_concat]
    rfl

/-- ENCRYPT_BLOCK is R154's loop and the final injection. -/
theorem encryptBlock_eq_foldl (v : Variant) (ks : List (List Word)) (x : List Word) :
    encryptBlock v ks x = inject ks (v.nr / 4) ((List.range v.nr).foldl (encBody v ks) x) := by
  rw [← encRounds_v]
  rfl

/-- DECRYPT_BLOCK is the first ejection and R155's loop. -/
theorem decryptBlock_eq_foldl (v : Variant) (ks : List (List Word)) (x : List Word) :
    decryptBlock v ks x =
      (List.range v.nr).reverse.foldl (decBody v ks) (eject ks (v.nr / 4) x) := by
  rw [← decRounds_v]
  rfl

/-- DECRYPT_BLOCK undoes ENCRYPT_BLOCK on a block (R156). -/
theorem decryptBlock_encryptBlock (v : Variant) (ks : List (List Word)) {x : List Word}
    (hx : x.length = v.nw) : decryptBlock v ks (encryptBlock v ks x) = x := by
  rw [decryptBlock_eq_foldl, encryptBlock_eq_foldl, eject_inject]
  exact foldl_reverse_foldl (P := fun y => y.length = v.nw) (fun y d _ => encBody_length v ks y d)
    (fun _ d hy => decBody_encBody v ks d hy) _ hx

/-- ENCRYPT_BLOCK undoes DECRYPT_BLOCK on a block (R156). -/
theorem encryptBlock_decryptBlock (v : Variant) (ks : List (List Word)) {x : List Word}
    (hx : x.length = v.nw) : encryptBlock v ks (decryptBlock v ks x) = x := by
  have hloop := foldl_reverse_foldl (P := fun y => y.length = v.nw)
    (fun y d _ => decBody_length v ks y d) (fun _ d hy => encBody_decBody v ks d hy)
    (List.range v.nr).reverse ((eject_length ks (v.nr / 4) x).trans hx)
  rw [List.reverse_reverse] at hloop
  rw [decryptBlock_eq_foldl, encryptBlock_eq_foldl, hloop, inject_eject]

end Sys2Proof.Machine

open Sys2Proof Sys2Proof.Machine

/-- Settles O29: the two round trips word by word, and the words of the two results. -/
theorem ejectInvertsInject : Obligations.EjectInvertsInject := by
  unfold Obligations.EjectInvertsInject
  exact fun ks s x => ⟨eject_inject ks s x, inject_eject ks s x,
    fun _ hi => ⟨inject_getD ks s hi, eject_getD ks s hi⟩⟩

/-- Settles O31: a run on V and D is a fold of its loop body over the round numbers
(`encRounds_v`, `decRounds_v`), and the loop bodies are the rules'. -/
theorem blockFunctionsAreTheRuleLoops : Obligations.BlockFunctionsAreTheRuleLoops := by
  unfold Obligations.BlockFunctionsAreTheRuleLoops
  exact fun v ks x => ⟨encryptBlock_eq_foldl v ks x, decryptBlock_eq_foldl v ks x⟩

/-- Settles O30: the loop bodies undo each other on a block, so the descending fold undoes the
ascending one (`foldl_reverse_foldl`), between an injection and an ejection of the last group. -/
theorem decryptBlockInvertsEncryptBlock : Obligations.DecryptBlockInvertsEncryptBlock := by
  unfold Obligations.DecryptBlockInvertsEncryptBlock
  exact fun v ks x hx => ⟨decryptBlock_encryptBlock v ks hx, encryptBlock_decryptBlock v ks hx⟩
end

section
/-! SUPPORT. The completion of a command by its ST and its lengths (R184 to R187), and the proofs
about the issue and the completion of commands. -/

namespace Sys2Proof.Machine

/-! ### CONSTRUCT -/

/-- On a constructed engine CONSTRUCT reports ALREADY_CONSTRUCTED (R217). -/
theorem doConstruct_of_constructed {s : State} (la lb : BitVec 16) (hst : s.st = .constructed) :
    doConstruct la lb s = s.complete .alreadyConstructed := by
  simpa [hst] using doConstruct_cases la lb s

/-- CONSTRUCT with a wrong key length reports KEY_SIZE (R213). -/
theorem doConstruct_of_lenA_ne {s : State} {la : BitVec 16} (lb : BitVec 16) (hst : s.st = .uninit)
    (ha : la.toNat ≠ 8 * s.variant.nw) : doConstruct la lb s = s.complete .keySize := by
  simpa [hst, ha] using doConstruct_cases la lb s

/-- CONSTRUCT with the key length right and a wrong tweak length reports TWEAK_SIZE (R214). -/
theorem doConstruct_of_lenB_ne {s : State} {la lb : BitVec 16} (hst : s.st = .uninit)
    (ha : la.toNat = 8 * s.variant.nw) (hb : lb.toNat ≠ 16) :
    doConstruct la lb s = s.complete .tweakSize := by
  simpa [hst, ha, hb] using doConstruct_cases la lb s

/-- CONSTRUCT in UNINIT with both lengths right succeeds (R184). -/
theorem doConstruct_of_lens_eq {s : State} {la lb : BitVec 16} (hst : s.st = .uninit)
    (ha : la.toNat = 8 * s.variant.nw) (hb : lb.toNat = 16) :
    doConstruct la lb s = s.constructDone := by
  simpa [hst, ha, hb] using doConstruct_cases la lb s

/-! ### ENCRYPT and DECRYPT -/

/-- ENCRYPT and DECRYPT are DO_CRYPT with the load and the run that their block function is made of
(R185, R186). -/
theorem exec_crypt_eq_doCrypt {i : Instr} {la lb : BitVec 16}
    {block : Variant → List (List Word) → List Word → List Word}
    (h : (i = .encrypt la lb ∧ block = encryptBlock) ∨ (i = .decrypt la lb ∧ block = decryptBlock)) :
    ∃ (load : Variant → List Word → Datapath)
      (run : Variant → List (List Word) → Datapath → Datapath),
      (∀ s, exec i s = .next (doCrypt load run la lb s)) ∧
      ∀ v ks x, block v ks x = (run v ks (load v x)).v := by
  rcases h with ⟨rfl, rfl⟩ | ⟨rfl, rfl⟩
  · exact ⟨Datapath.encryptLoad, fun v ks p => p.encryptRun v ks, fun _ => rfl, fun _ _ _ => rfl⟩
  · exact ⟨Datapath.decryptLoad, fun v ks p => p.decryptRun v ks, fun _ => rfl, fun _ _ _ => rfl⟩

section
variable (load : Variant → List Word → Datapath)
  (run : Variant → List (List Word) → Datapath → Datapath)

/-- In UNINIT DO_CRYPT reports NOT_CONSTRUCTED (R216). -/
theorem doCrypt_of_uninit {s : State} (la lb : BitVec 16) (hst : s.st = .uninit) :
    doCrypt load run la lb s = s.complete .notConstructed := by
  simpa [hst] using doCrypt_cases load run la lb s

/-- On a constructed engine DO_CRYPT with a wrong length reports LENGTH_VIOLATION (R215). -/
theorem doCrypt_of_len_ne {s : State} {la lb : BitVec 16} (hst : s.st = .constructed)
    (hlen : la.toNat ≠ 8 * s.variant.nw ∨ lb.toNat ≠ 8 * s.variant.nw) :
    doCrypt load run la lb s = s.complete .lengthViolation := by
  rcases doCrypt_cases load run la lb s with ⟨hu, _⟩ | ⟨_, _, e⟩ | ⟨_, ha, hb, _⟩
  · simp [hst] at hu
  · exact e
  · simp [ha, hb] at hlen

/-- On a constructed engine DO_CRYPT with both lengths right succeeds (R185). -/
theorem doCrypt_of_lens_eq {s : State} {la lb : BitVec 16} (hst : s.st = .constructed)
    (ha : la.toNat = 8 * s.variant.nw) (hb : lb.toNat = 8 * s.variant.nw) :
    doCrypt load run la lb s = s.cryptDone load run := by
  simpa [hst, ha, hb] using doCrypt_cases load run la lb s

/-- What a successful DO_CRYPT leaves, field by field: the result is V of the run on the latched
block, written into DATA_OUT (R34, R185). -/
theorem cryptDone_eq (s : State) : s.cryptDone load run = { s with
    dataOut := writeBlock s.variant s.dataOut (run s.variant s.ks (load s.variant s.latch.data)).v
    dp := freeDatapath s.variant s.freeCount, freeCount := s.freeCount + 1
    err := .none, errInfo := 0#16, pending := false, done := true } := by
  simp only [State.loadDatapath, State.blockWords, State.runDatapath, State.storeResult,
    State.releaseDatapath, State.complete, CmdError.info]

end

/-! ### ILLEGAL words -/

/-- The engine's turn with an ILLEGAL word in LATCH ends with ILLEGAL_CMD (R187). -/
theorem engineStep_of_decode_error {s : State} {r : Illegal} (hp : s.pending = true)
    (hd : decode s.latch.cmd = .error r) : engineStep s = .next (s.complete .illegalCmd) := by
  simp [engineStep, hp, State.commandWord, hd, completeIllegal]

end Sys2Proof.Machine

open Sys2Proof Sys2Proof.Machine

/-- Settles O10: the write is a command request, and the lists of the snapshot are the words
`usedWords` takes from the two files. -/
theorem cmdWriteIssuesOrOverruns : Obligations.CmdWriteIssuesOrOverruns := by
  unfold Obligations.CmdWriteIssuesOrOverruns
  intro s addr w rest h ha
  rw [step_alignedWrite (by omega) h, ha, memWrite_cmd, commandRequest_inputs]
  refine ⟨fun hp => ?_, fun hp => ?_⟩
  · rw [commandRequest_busy s w hp]
  · rw [commandRequest_idle s w hp]
    exact ⟨usedWords s.variant s.keyIn, usedWords s.variant s.dataIn, usedWords_length _ _,
      usedWords_length _ _, fun j hj => ⟨usedWords_get _ _ j hj, usedWords_get _ _ j hj⟩, rfl⟩

/-- Settles O13: such a word is the decoder's ILLEGAL (`decode_eq_error_iff`), which ends with
ILLEGAL_CMD before ST is looked at. -/
theorem illegalWordEndsWithIllegalCmd : Obligations.IllegalWordEndsWithIllegalCmd := by
  unfold Obligations.IllegalWordEndsWithIllegalCmd
  intro s hp hm hw
  obtain ⟨r, hd⟩ : ∃ r, decode s.latch.cmd = .error r := by
    rw [decode_eq_error_iff, op_reserved_iff, fieldOp, fieldRsv0, fieldRsv1]
    tauto
  rw [step_of_engineMoves hm,
    engineStep_of_decode_error (s := { s with inputs := s.inputs.tail }) hp hd]
  rfl

/-- Settles O19: DO_CONSTRUCT's outcome in each case of ST and the lengths. -/
theorem constructInstallsTheScheduleOrReports :
    Obligations.ConstructInstallsTheScheduleOrReports := by
  unfold Obligations.ConstructInstallsTheScheduleOrReports
  intro s la lb
  rw [exec, execConstruct]
  refine ⟨fun hst ha hb => ?_, fun hst => ?_, fun hst ha => ?_, fun hst ha hb => ?_⟩
  · rw [doConstruct_of_lens_eq hst ha hb]
    exact ⟨_, _, rfl⟩
  · rw [doConstruct_of_constructed la lb hst]
    rfl
  · rw [doConstruct_of_lenA_ne lb hst ha]
    rfl
  · rw [doConstruct_of_lenB_ne hst ha hb]
    rfl

/-- Settles O20: both commands are DO_CRYPT (`exec_crypt_eq_doCrypt`), whose success writes V, the
block function of the latched block, into DATA_OUT slot by slot (`writeBlock_get`). -/
theorem encryptAndDecryptWriteTheResultOrReport :
    Obligations.EncryptAndDecryptWriteTheResultOrReport := by
  unfold Obligations.EncryptAndDecryptWriteTheResultOrReport
  intro s la lb i block hi
  obtain ⟨load, run, hexec, hblock⟩ := exec_crypt_eq_doCrypt hi
  rw [hexec, hblock]
  refine ⟨fun hst ha hb => ?_, fun hst => ?_, fun hst hlen => ?_⟩
  · rw [doCrypt_of_lens_eq load run hst ha hb, cryptDone_eq]
    exact ⟨_, _, _, fun j => writeBlock_get s.variant s.dataOut _ j.val j.isLt, rfl⟩
  · rw [doCrypt_of_uninit load run la lb hst]
    rfl
  · rw [doCrypt_of_len_ne load run hst hlen]
    rfl
end

section
/-! SUPPORT. Errors: what a completion that reports one leaves, which one it reports, and the accesses
the bus port refuses (R212, R220, R221). -/

namespace Sys2Proof.Machine

/-! ### The end of a completion -/

/-- A completion clears BUSY, sets DONE and writes the info value that goes with its ERR (R182). -/
theorem Completion.status_eq {s t : State} (h : Completion s t) :
    t.pending = false ∧ t.done = true ∧ t.errInfo = t.err.info s.variant := by
  cases h <;> simp

/-- A completion that reports an error is the write of STATUS alone (R212). -/
theorem Completion.eq_complete_of_err {s t : State} (h : Completion s t) (he : t.err ≠ .none) :
    t = s.complete t.err := by
  cases h with
  | failed e => rfl
  | constructed | encrypted | decrypted => exact absurd (State.complete_err _ _) he

/-! ### The error reported -/

/-- The error a CONSTRUCT reports: its ST first, then LEN_A, then LEN_B (R184, R221). -/
theorem doConstruct_err (la lb : BitVec 16) (s : State) :
    (doConstruct la lb s).err =
      if s.st = .constructed then .alreadyConstructed
      else if la.toNat ≠ 8 * s.variant.nw then .keySize
      else if lb.toNat ≠ 16 then .tweakSize
      else .none := by
  rcases doConstruct_cases la lb s with ⟨hst, e⟩ | ⟨hst, ha, e⟩ | ⟨hst, ha, hb, e⟩ |
    ⟨hst, ha, hb, e⟩
  · simp [e, hst]
  · simp [e, hst, ha]
  · simp [e, hst, ha, hb]
  · simp [e, hst, ha, hb]

/-- The error an ENCRYPT or DECRYPT reports: its ST first, then its two lengths together (R185,
R221). -/
theorem doCrypt_err (load : Variant → List Word → Datapath)
    (run : Variant → List (List Word) → Datapath → Datapath) (la lb : BitVec 16) (s : State) :
    (doCrypt load run la lb s).err =
      if s.st = .uninit then .notConstructed
      else if la.toNat ≠ 8 * s.variant.nw ∨ lb.toNat ≠ 8 * s.variant.nw then .lengthViolation
      else .none := by
  rcases doCrypt_cases load run la lb s with ⟨hst, e⟩ | ⟨hst, hlen, e⟩ | ⟨hst, ha, hb, e⟩
  · simp [e, hst]
  · simp [e, hst, hlen]
  · simp [e, hst, ha, hb]

/-- The engine's turn with a command in LATCH is that command's EXECUTE (R183). -/
theorem engineStep_of_decode_ok {s : State} {i : Instr} (hp : s.pending = true)
    (hd : decode s.latch.cmd = .ok i) : engineStep s = exec i s := by
  simp [engineStep, hp, State.commandWord, hd]

end Sys2Proof.Machine

open Sys2Proof Sys2Proof.Machine

/-- Settles O14: the engine's turn is a `Completion`, and one that reports an error is
`State.complete`, which writes STATUS alone. -/
theorem completionWithAnErrorWritesOnlyStatus :
    Obligations.CompletionWithAnErrorWritesOnlyStatus := by
  unfold Obligations.CompletionWithAnErrorWritesOnlyStatus
  intro s hp hm
  obtain ⟨t, ht, hc⟩ := engineStep_pending { s with inputs := s.inputs.tail } hp
  obtain ⟨hpending, hdone, hinfo⟩ := hc.status_eq
  exact ⟨t, (step_of_engineMoves hm).trans ht, hpending, hdone, hc.overrun_eq, hinfo,
    hc.eq_complete_of_err⟩

/-- Settles O15, by what the word in LATCH decodes to: ILLEGAL is reported before ST is looked at, and
`doConstruct_err` and `doCrypt_err` say the order for the commands. -/
theorem firstApplicableErrorIsReported : Obligations.FirstApplicableErrorIsReported := by
  unfold Obligations.FirstApplicableErrorIsReported
  intro s t hp hm ht
  rw [step_of_engineMoves hm] at ht
  cases hd : decode s.latch.cmd with
  | error r =>
    rw [engineStep_of_decode_error (s := { s with inputs := s.inputs.tail }) hp hd] at ht
    cases ht
    rfl
  | ok i =>
    rw [engineStep_of_decode_ok (s := { s with inputs := s.inputs.tail }) hp hd] at ht
    cases i with
    | construct la lb =>
      cases ht
      exact doConstruct_err la lb _
    | encrypt la lb =>
      cases ht
      exact doCrypt_err _ _ la lb _
    | decrypt la lb =>
      cases ht
      exact doCrypt_err _ _ la lb _

/-- Settles O36: the window accepts only eight bytes at a multiple of 8 (`accepts_iff`), and an access
it does not accept leaves only the port's answer (`step_refused`). -/
theorem refusedAccessChangesNothing : Obligations.RefusedAccessChangesNothing := by
  unfold Obligations.RefusedAccessChangesNothing
  intro s a rest h hbad
  have ha : accepts a = false := by
    rw [← Bool.not_eq_true, accepts_iff]
    tauto
  exact step_refused ha h
end

section
/-! SUPPORT. Encoding a command word and the commands that are well formed, with the proofs about
the two (R91 to R100). -/

namespace Sys2Proof

/-- A command's word is its number by R100's formula. -/
theorem encode_eq_ofNat (i : Instr) :
    encode i = BitVec.ofNat 64 (i.lenB.toNat <<< 24 ||| i.lenA.toNat <<< 8 ||| i.op.toNat) := by
  have ha := i.lenA.isLt
  have hb := i.lenB.isLt
  have ho := i.op.isLt
  have hshift : i.lenB.toNat <<< 24 ||| i.lenA.toNat <<< 8 =
      (i.lenB.toNat <<< 16 + i.lenA.toNat) <<< 8 := by
    rw [Nat.shiftLeft_add_eq_or_of_lt ha, Nat.shiftLeft_or_distrib, ← Nat.shiftLeft_add]
  have hop : i.op.toNat < 2 ^ 8 := by omega
  apply BitVec.eq_of_toNat_eq
  rw [hshift, ← Nat.shiftLeft_add_eq_or_of_lt hop, encode, packCommand_toNat, BitVec.toNat_ofNat]
  simp only [Nat.shiftLeft_eq, BitVec.toNat_ofNat]
  omega

/-- A word decodes to a command exactly when it is that command's word (R91, R96). -/
theorem decode_eq_ok_iff_encode (w : Word) (i : Instr) : decode w = .ok i ↔ encode i = w := by
  conv_rhs => rw [← pack_fields w, encode, packCommand_inj]
  rw [decode_eq_ok_iff]
  tauto

/-- A command's word decodes to it. -/
@[simp] theorem decode_encode (i : Instr) : decode (encode i) = .ok i :=
  (decode_eq_ok_iff_encode _ i).mpr rfl

/-- A command is well formed when each of its lengths is the one wanted (R98). -/
theorem Instr.wf_iff (v : Variant) (i : Instr) :
    i.wf v = true ↔ i.lenA.toNat = i.wantA v ∧ i.lenB.toNat = i.wantB v := by
  simp [Instr.wf]

end Sys2Proof

open Sys2Proof Sys2Proof.Machine

/-- Settles O6: a word decodes by its fields, and a command's word is the packing of that command's
fields. -/
theorem decodeInvertsEncode : Obligations.DecodeInvertsEncode := by
  unfold Obligations.DecodeInvertsEncode
  exact decode_eq_ok_iff_encode

/-- Settles O9: a command that reports no error took the last branch of its error order, where both
lengths are right. -/
theorem onlyWellFormedCommandsSucceed : Obligations.OnlyWellFormedCommandsSucceed := by
  unfold Obligations.OnlyWellFormedCommandsSucceed
  intro i s t h he
  rw [Instr.wf_iff]
  cases i with
  | construct la lb =>
    cases h
    rw [doConstruct_err] at he
    split_ifs at he with _ ha hb
    exact ⟨not_not.mp ha, not_not.mp hb⟩
  | encrypt la lb | decrypt la lb =>
    cases h
    rw [doCrypt_err] at he
    split_ifs at he with _ hlen
    exact ⟨not_not.mp fun h => hlen (.inl h), not_not.mp fun h => hlen (.inr h)⟩

/-- Settles O8, by evaluating the decoder on the nine words of the table. -/
theorem wellFormedWordsDecode : Obligations.WellFormedWordsDecode := by
  unfold Obligations.WellFormedWordsDecode
  decide

/-- Settles O42: the pseudo-instruction is one write of the command's word, which is the formula's
(`encode_eq_ofNat`). -/
theorem commandPseudosWriteTheRuleWord : Obligations.CommandPseudosWriteTheRuleWord := by
  unfold Obligations.CommandPseudosWriteTheRuleWord
  intro v la lb
  simp only [HostOp.expand, encode_eq_ofNat]
  exact ⟨rfl, rfl, rfl⟩
end

section
/-! SUPPORT. The invariants of every run: each operation keeps `State.Wf` and the schedule, and each
step is one of them (R35 to R39, R127, R128). -/

namespace Sys2Proof.Machine

/-! ### What the two kinds of turn keep -/

/-- A host access keeps the variant, DATA_OUT and the events still to come. -/
theorem busAccess_variant_dataOut_inputs (s : State) (a : BusAccess) :
    (s.busAccess a).variant = s.variant ∧ (s.busAccess a).dataOut = s.dataOut ∧
      (s.busAccess a).inputs = s.inputs := by
  have hcmd (w : Word) : (s.commandRequest w).variant = s.variant ∧
      (s.commandRequest w).dataOut = s.dataOut ∧ (s.commandRequest w).inputs = s.inputs := by
    unfold State.commandRequest
    split <;> exact ⟨rfl, rfl, rfl⟩
  obtain ⟨r, e | ⟨w, _, _, ⟨_, _, e⟩ | ⟨_, e⟩ | ⟨j, _, _, e⟩ | ⟨j, _, e⟩ | ⟨j, _, _, e⟩⟩⟩ :=
    busAccess_cases s a <;> rw [e]
  case inr.inr.inl => exact hcmd w
  all_goals exact ⟨rfl, rfl, rfl⟩

/-- A completion keeps the variant and the events still to come. -/
theorem Completion.variant_inputs_eq {s t : State} (h : Completion s t) :
    t.variant = s.variant ∧ t.inputs = s.inputs := by
  cases h <;> simp

/-- The engine's turn has a next state (R223). -/
theorem engineStep_next (s : State) : ∃ t, engineStep s = .next t := by
  cases hp : s.pending with
  | false => exact ⟨s, engineStep_idle s hp⟩
  | true =>
    obtain ⟨t, ht, _⟩ := engineStep_pending s hp
    exact ⟨t, ht⟩

/-- Every step has a next state (R223). -/
theorem step_next (s : State) : ∃ t, step s = .next t := by
  rw [step]
  cases s.inputs with
  | nil => exact engineStep_next s
  | cons e rest =>
    cases e with
    | engine => exact engineStep_next _
    | access a => exact ⟨_, rfl⟩
    | reset => exact ⟨_, rfl⟩

/-! ### Well-formed states -/

/-- Every variant has rounds. -/
theorem nr_pos (v : Variant) : 0 < v.nr := by cases v <;> decide

/-- The free KS has NS groups of NW words. -/
theorem freeSchedule_shape (v : Variant) (n : Nat) :
    (freeSchedule v n).length = v.ns ∧ ∀ g ∈ freeSchedule v n, g.length = v.nw := by
  refine ⟨by simp [freeSchedule], fun g hg => ?_⟩
  obtain ⟨i, _, rfl⟩ := List.mem_map.mp hg
  simp

/-- The reset state is well formed (R44). -/
theorem resetOf_wf (v : Variant) : (State.resetOf v).Wf := by
  constructor
  case keyReserved | dataInReserved | dataOutReserved => simp [State.resetOf]
  case ksWords => simp [State.resetOf]
  case roundRange => exact nr_pos v
  all_goals simp [State.resetOf, State.busy, CmdError.info]

/-- A reset event clears what the host sees and keeps the shapes of the rest (R240). -/
theorem resetEvent_wf (s : State) : s.resetEvent.Wf :=
  { resetOf_wf s.variant with
    ksGroups := (freeSchedule_shape _ _).1
    ksWords := (freeSchedule_shape _ _).2
    latchKey := by simp [freeLatch]
    latchData := by simp [freeLatch]
    blockState := freeDatapath_length _ _
    roundRange := freeDatapath_range _ _ }

namespace State.Wf

variable {s : State} (h : s.Wf)
include h

/-- The events still to come and the port's answer may be any. -/
theorem port (evs : List Event) (r : Option BusResponse) :
    State.Wf { s with inputs := evs, response := r } := { h with }

/-- OVERRUN may be set or clear. -/
theorem setOverrun (b : Bool) : State.Wf { s with overrun := b } := { h with }

/-- TWEAK_IN has no reserved slots, so a write of it cannot break the shape (R32). -/
theorem setTweakIn (j : Fin 2) (w : Word) : State.Wf { s with tweakIn := s.tweakIn.set j w } :=
  { h with }

/-- A write of a slot of KEY_IN below NW leaves the reserved ones 0 (R31, R35). -/
theorem setKeyIn {j : Fin 16} (hj : j.val < s.variant.nw) (w : Word) :
    State.Wf { s with keyIn := s.keyIn.set j w } :=
  { h with
    keyReserved := fun i hi =>
      (Vector.getElem_set_ne j.isLt i.isLt (hj.trans_le hi).ne).trans (h.keyReserved i hi) }

/-- A write of a slot of DATA_IN below NW leaves the reserved ones 0 (R33, R35). -/
theorem setDataIn {j : Fin 16} (hj : j.val < s.variant.nw) (w : Word) :
    State.Wf { s with dataIn := s.dataIn.set j w } :=
  { h with
    dataInReserved := fun i hi =>
      (Vector.getElem_set_ne j.isLt i.isLt (hj.trans_le hi).ne).trans (h.dataInReserved i hi) }

/-- DATA_OUT may be any file whose reserved slots are 0. -/
theorem setDataOut {f : Vector Word 16} (hf : ∀ j : Fin 16, s.variant.nw ≤ j.val → f[j] = 0#64) :
    State.Wf { s with dataOut := f } := { h with dataOutReserved := hf }

/-- A block written into DATA_OUT leaves the reserved slots 0 (R34, R35). -/
theorem setResult (block : List Word) :
    State.Wf { s with dataOut := writeBlock s.variant s.dataOut block } :=
  h.setDataOut fun j hj => (writeBlock_get s.variant s.dataOut block j.val j.isLt).trans
    ((if_neg (Nat.not_lt.mpr hj)).trans (h.dataOutReserved j hj))

/-- An issue takes a snapshot of the right shape and clears DONE and ERR (R180). -/
theorem issue (w : Word) : (s.issue w).Wf :=
  { h with
    latchKey := usedWords_length _ _
    latchData := usedWords_length _ _
    notBusyAndDone := fun hbd => Bool.false_ne_true hbd.2
    busyNoError := fun _ => rfl
    idleNoError := fun _ => rfl
    infoMatches := rfl
    uninitErrors := by simp
    constructedErrors := by simp }

/-- A CMD request issues or sets OVERRUN (R180, R181). -/
theorem commandRequest (w : Word) : (s.commandRequest w).Wf := by
  unfold State.commandRequest
  split
  · exact h.setOverrun true
  · exact h.issue w

/-- A completion leaves a state that its ERR agrees with (R182). -/
theorem complete {e : CmdError}
    (uninit : e = .keySize ∨ e = .tweakSize ∨ e = .notConstructed → s.st = .uninit)
    (constructed : e = .alreadyConstructed ∨ e = .lengthViolation → s.st = .constructed) :
    (s.complete e).Wf :=
  { h with
    notBusyAndDone := fun hbd => Bool.false_ne_true hbd.1
    busyNoError := fun hb => absurd hb Bool.false_ne_true
    idleNoError := fun hd => absurd hd.symm Bool.false_ne_true
    infoMatches := rfl
    uninitErrors := uninit
    constructedErrors := constructed }

/-- V and D released keep their shape and range (R39; the range by log 14). -/
theorem releaseDatapath : s.releaseDatapath.Wf :=
  { h with
    blockState := freeDatapath_length _ _
    roundRange := freeDatapath_range _ _ }

/-- The schedule installed has the shape of KS, and a command in flight has no error that ST could
contradict (R127). -/
theorem installSchedule (hp : s.pending = true) : s.installSchedule.Wf :=
  { h with
    ksGroups := schedule_length _ _ _
    ksWords := schedule_group_length _ _ _
    uninitErrors := fun he => by simp [h.busyNoError hp] at he
    constructedErrors := fun _ => rfl }

/-- A successful ENCRYPT or DECRYPT keeps the state well formed: V and D are released after the run,
so only the result written into DATA_OUT is left of it. -/
theorem cryptDone (load : Variant → List Word → Datapath)
    (run : Variant → List (List Word) → Datapath → Datapath) : (s.cryptDone load run).Wf :=
  (h.setResult (run s.variant s.ks (load s.variant s.latch.data)).v).releaseDatapath.complete
    (by simp) (by simp)

/-- Every completion keeps the state well formed. -/
theorem completion {t : State} (hp : s.pending = true) (hc : Completion s t) : t.Wf := by
  cases hc with
  | failed e ne uninit constructed => exact h.complete uninit constructed
  | constructed => exact (h.installSchedule hp).releaseDatapath.complete (by simp) (by simp)
  | encrypted | decrypted => exact h.cryptDone _ _

/-- The engine's turn keeps the state well formed. -/
theorem engineStep {t : State} (ht : engineStep s = .next t) : t.Wf := by
  rcases engineStep_cases ht with rfl | ⟨hp, hc⟩
  · exact h
  · exact h.completion hp hc

/-- A host access keeps the state well formed. -/
theorem busAccess (a : BusAccess) : (s.busAccess a).Wf := by
  obtain ⟨r, e | ⟨w, _, _, ⟨_, _, e⟩ | ⟨_, e⟩ | ⟨j, _, hj, e⟩ | ⟨j, _, e⟩ | ⟨j, _, hj, e⟩⟩⟩ :=
    busAccess_cases s a <;> rw [e]
  · exact h.port _ r
  · exact (h.setOverrun false).port _ r
  · exact (h.commandRequest w).port _ r
  · exact (h.setKeyIn hj w).port _ r
  · exact (h.setTweakIn j w).port _ r
  · exact (h.setDataIn hj w).port _ r

end State.Wf

/-! ### The schedule -/

/-- A completion on a well-formed state keeps the schedule, or installs one (R127, R184). -/
theorem Completion.holdsSchedule {s t : State} (hwf : s.Wf) (h : s.HoldsSchedule)
    (hc : Completion s t) : t.HoldsSchedule := by
  cases hc with
  | constructed =>
    intro _
    refine ⟨s.latch.key, s.latch.tweak, ?_, ?_⟩
    · simpa using hwf.latchKey
    · simp
  | failed | encrypted | decrypted => simpa [State.HoldsSchedule] using h

/-- A host access keeps the schedule. -/
theorem State.HoldsSchedule.busAccess {s : State} (h : s.HoldsSchedule) (a : BusAccess) :
    (s.busAccess a).HoldsSchedule := by
  obtain ⟨hst, hks⟩ := busAccess_st_ks s a
  obtain ⟨hv, _, _⟩ := busAccess_variant_dataOut_inputs s a
  rw [State.HoldsSchedule, hst, hks, hv]
  exact h

end Sys2Proof.Machine

open Sys2Proof Sys2Proof.Machine

/-- Settles O45, by the kind of the step: `State.Wf` has one lemma for each operation of the model,
and each kind of step is made of them. -/
theorem stepKeepsWellFormedStates : Obligations.StepKeepsWellFormedStates := by
  unfold Obligations.StepKeepsWellFormedStates
  intro s t hwf h
  have hwf' := hwf.port s.inputs.tail s.response
  rcases step_head_cases h with ⟨_, ht⟩ | ⟨_, rfl⟩ | ⟨a, _, rfl⟩
  · exact hwf'.engineStep ht
  · exact resetEvent_wf _
  · exact hwf'.busAccess a

/-- Settles O46, by the kind of the step: a reset leaves CONSTRUCTED, a host access keeps ST and KS,
and a completion that writes KS writes the schedule of the latched key and tweak. -/
theorem stepKeepsTheScheduleInvariant : Obligations.StepKeepsTheScheduleInvariant := by
  unfold Obligations.StepKeepsTheScheduleInvariant
  intro s t hwf hks h
  have hks' : State.HoldsSchedule { s with inputs := s.inputs.tail } := hks
  rcases step_head_cases h with ⟨_, ht⟩ | ⟨_, rfl⟩ | ⟨a, _, rfl⟩
  · rcases engineStep_cases ht with rfl | ⟨_, hc⟩
    · exact hks'
    · exact hc.holdsSchedule (hwf.port _ _) hks'
  · exact fun hst => by simp at hst
  · exact hks'.busAccess a

/-- Settles O44: the reset state is well formed, and it is not CONSTRUCTED. -/
theorem resetMeetsTheInvariants : Obligations.ResetMeetsTheInvariants := by
  unfold Obligations.ResetMeetsTheInvariants
  exact fun v => ⟨resetOf_wf v, fun hst => by simp [State.resetOf] at hst⟩

/-- Settles O47: an access and a reset are total, and so is the engine's turn. -/
theorem everyStepHasANextState : Obligations.EveryStepHasANextState := by
  unfold Obligations.EveryStepHasANextState
  exact step_next
end

section
/-! SUPPORT. Two engines side by side: what a completion and a read depend on, with the proofs that
unspecified and secret state is not observed (R78, R191, R254, R256, D23). -/

namespace Sys2Proof.Machine

/-! ### One command on two engines -/

/-- The two ways in which two engines can complete one command: with the same error, or both with a
success of the same kind. -/
inductive TwinCompletion (s t : State) : State → State → Prop where
  /-- Both report the error. -/
  | failed (e : CmdError) : TwinCompletion s t (s.complete e) (t.complete e)
  /-- Both are constructed. -/
  | constructed : TwinCompletion s t s.constructDone t.constructDone
  /-- Both write a result. -/
  | crypted (load : Variant → List Word → Datapath)
      (run : Variant → List (List Word) → Datapath → Datapath) (st : s.st = .constructed) :
      TwinCompletion s t (s.cryptDone load run) (t.cryptDone load run)

section
variable {s t : State} (hv : s.variant = t.variant) (hst : s.st = t.st)
include hv hst

/-- The outcome of DO_CONSTRUCT is told by the variant and ST. -/
theorem doConstruct_twin (la lb : BitVec 16) :
    TwinCompletion s t (doConstruct la lb s) (doConstruct la lb t) := by
  rcases doConstruct_cases la lb s with ⟨h, e⟩ | ⟨h, ha, e⟩ | ⟨h, ha, hb, e⟩ | ⟨h, ha, hb, e⟩ <;>
    rw [e]
  · rw [doConstruct_of_constructed la lb (hst ▸ h)]
    exact .failed _
  · rw [doConstruct_of_lenA_ne lb (hst ▸ h) (hv ▸ ha)]
    exact .failed _
  · rw [doConstruct_of_lenB_ne (hst ▸ h) (hv ▸ ha) hb]
    exact .failed _
  · rw [doConstruct_of_lens_eq (hst ▸ h) (hv ▸ ha) hb]
    exact .constructed

/-- The outcome of DO_CRYPT is told by the variant and ST. -/
theorem doCrypt_twin (load : Variant → List Word → Datapath)
    (run : Variant → List (List Word) → Datapath → Datapath) (la lb : BitVec 16) :
    TwinCompletion s t (doCrypt load run la lb s) (doCrypt load run la lb t) := by
  rcases doCrypt_cases load run la lb s with ⟨h, e⟩ | ⟨h, hlen, e⟩ | ⟨h, ha, hb, e⟩ <;> rw [e]
  · rw [doCrypt_of_uninit load run la lb (hst ▸ h)]
    exact .failed _
  · rw [doCrypt_of_len_ne load run (hst ▸ h) (hv ▸ hlen)]
    exact .failed _
  · rw [doCrypt_of_lens_eq load run (hst ▸ h) (hv ▸ ha) (hv ▸ hb)]
    exact .crypted load run h

/-- Two engines of one variant and one ST complete a command alike. -/
theorem exec_twin {i : Instr} {s' t' : State} (hs : exec i s = .next s')
    (ht : exec i t = .next t') : TwinCompletion s t s' t' := by
  cases i <;> cases hs <;> cases ht
  · exact doConstruct_twin hv hst _ _
  · exact doCrypt_twin hv hst _ _ _ _
  · exact doCrypt_twin hv hst _ _ _ _

/-- Two engines of one variant and one ST complete the same word in LATCH alike. -/
theorem engineStep_twin {s' t' : State} (hcmd : s.latch.cmd = t.latch.cmd)
    (hps : s.pending = true) (hpt : t.pending = true) (hs : engineStep s = .next s')
    (ht : engineStep t = .next t') : TwinCompletion s t s' t' := by
  cases hd : decode s.latch.cmd with
  | error r =>
    rw [engineStep_of_decode_error hps hd] at hs
    rw [engineStep_of_decode_error hpt (hcmd ▸ hd)] at ht
    cases hs
    cases ht
    exact .failed _
  | ok i =>
    rw [engineStep_of_decode_ok hps hd] at hs
    rw [engineStep_of_decode_ok hpt (hcmd ▸ hd)] at ht
    exact exec_twin hv hst hs ht

end

/-- Twin completions report the same. -/
theorem TwinCompletion.err_eq {s t s' t' : State} (h : TwinCompletion s t s' t') :
    s'.err = t'.err := by
  cases h <;> simp

/-! ### Reads -/

/-- A read answers nothing that depends on the key, the tweak or the internal storage (R78). -/
theorem SameButSecrets.readReg_eq {s t : State} (h : SameButSecrets s t) (r : Reg) :
    s.readReg r = t.readReg r := by
  cases r with
  | id => simp only [State.readReg, State.idWord, h.variant]
  | blockSize => simp only [State.readReg, State.blockSizeWord, h.variant]
  | status =>
    simp only [State.readReg, State.statusWord, State.isConstructed, State.busy, h.pending, h.st,
      h.done, h.overrun, h.err, h.errInfo]
  | dataIn j => simp only [State.readReg, h.variant, h.dataIn]
  | dataOut j => simp only [State.readReg, h.variant, h.dataOut]
  | cmd | keyIn j | tweakIn j | reserved => rfl

namespace SameSpecified

variable {s t : State} (h : SameSpecified s t)
include h

/-- What the spec specifies covers all that a read answers. -/
theorem sameButSecrets : SameButSecrets s t := { h with }

/-- Machines that agree on all that is specified read alike. -/
theorem memRead_eq (off : Nat) : s.memRead off = t.memRead off := h.sameButSecrets.readReg_eq _

/-! ### Each kind of step keeps the agreement on what is specified -/

/-- The port's answer set in both. -/
theorem setResponse (r : Option BusResponse) :
    SameSpecified { s with response := r } { t with response := r } :=
  { h with response := rfl }

/-- The events still to come set in both. -/
theorem setInputs (evs : List Event) :
    SameSpecified { s with inputs := evs } { t with inputs := evs } :=
  { h with inputs := rfl }

/-- OVERRUN set or cleared in both. -/
theorem setOverrun (b : Bool) : SameSpecified { s with overrun := b } { t with overrun := b } :=
  { h with overrun := rfl }

/-- An issue takes its snapshot from specified registers only. -/
theorem issue (w : Word) : SameSpecified (s.issue w) (t.issue w) :=
  { h with
    pending := rfl, done := rfl, err := rfl, errInfo := rfl
    latch := fun _ => by simp only [State.issue_latch, h.variant, h.keyIn, h.tweakIn, h.dataIn] }

/-- A CMD request to both. -/
theorem commandRequest (w : Word) : SameSpecified (s.commandRequest w) (t.commandRequest w) := by
  cases hp : s.pending with
  | false =>
    rw [commandRequest_idle s w hp, commandRequest_idle t w (h.pending ▸ hp)]
    exact h.issue w
  | true =>
    rw [commandRequest_busy s w hp, commandRequest_busy t w (h.pending ▸ hp)]
    exact h.setOverrun true

/-- A register write to both. -/
theorem writeReg (w : Word) (r : Reg) : SameSpecified (s.writeReg w r) (t.writeReg w r) := by
  cases r with
  | status =>
    rw [State.writeReg, State.writeReg, State.writeStatus, State.writeStatus]
    split
    · exact h.setOverrun false
    · exact h
  | cmd => exact h.commandRequest w
  | keyIn j =>
    exact { h with
      keyIn := by simp only [State.writeReg, State.writeKeyIn_keyIn, h.variant, h.keyIn] }
  | tweakIn j =>
    exact { h with tweakIn := by simp only [State.writeReg, State.writeTweakIn_tweakIn, h.tweakIn] }
  | dataIn j =>
    exact { h with
      dataIn := by simp only [State.writeReg, State.writeDataIn_dataIn, h.variant, h.dataIn] }
  | id | blockSize | dataOut j | reserved => exact h

/-- A host access to both. -/
theorem busAccess (a : BusAccess) : SameSpecified (s.busAccess a) (t.busAccess a) := by
  cases ha : accepts a with
  | false =>
    rw [busAccess_refused s a ha, busAccess_refused t a ha]
    exact h.setResponse _
  | true =>
    cases hk : a.kind with
    | read =>
      rw [busAccess_read s a ha hk, busAccess_read t a ha hk, h.memRead_eq]
      exact h.setResponse _
    | write w =>
      rw [busAccess_write s a w ha hk, busAccess_write t a w ha hk]
      exact (h.writeReg w _).setResponse _

/-- A reset event in both: KS and LATCH may then differ, with ST in UNINIT and nothing in flight. -/
theorem resetEvent : SameSpecified s.resetEvent t.resetEvent := by
  constructor
  case variant => exact h.variant
  case inputs => exact h.inputs
  all_goals simp

/-- A completion in both: it uses KS when ST is CONSTRUCTED only, and LATCH, which both agree on
while the command is in flight. -/
theorem twinCompletion (hp : s.pending = true) {s' t' : State} (hc : TwinCompletion s t s' t') :
    SameSpecified s' t' := by
  have hl := h.latch hp
  cases hc with
  | failed e => exact { h with
      pending := rfl, done := rfl, err := rfl, latch := fun _ => hl
      errInfo := congrArg e.info h.variant }
  | constructed =>
    constructor
    all_goals simp [h.variant, h.overrun, h.keyIn, h.tweakIn, h.dataIn, h.dataOut, h.inputs,
      h.response, hl]
  | crypted load run st =>
    constructor
    all_goals simp [h.variant, h.st, h.overrun, h.keyIn, h.tweakIn, h.dataIn, h.dataOut, h.inputs,
      h.response, hl, h.ks st]

/-- The engine's turn in both. -/
theorem engineStep {s' t' : State} (hs : engineStep s = .next s') (ht : engineStep t = .next t') :
    SameSpecified s' t' := by
  cases hp : s.pending with
  | false =>
    rw [engineStep_idle s hp] at hs
    rw [engineStep_idle t (h.pending ▸ hp)] at ht
    cases hs
    cases ht
    exact h
  | true => exact h.twinCompletion hp (engineStep_twin h.variant h.st
      (congrArg Latch.cmd (h.latch hp)) hp (h.pending ▸ hp) hs ht)

/-- One step of both. -/
theorem step {s' t' : State} (hs : step s = .next s') (ht : step t = .next t') :
    SameSpecified s' t' := by
  rw [Machine.step] at hs ht
  rw [← h.inputs] at ht
  cases hi : s.inputs with
  | nil =>
    rw [hi] at hs ht
    exact h.engineStep hs ht
  | cons e rest =>
    rw [hi] at hs ht
    have hrest := h.setInputs rest
    cases e with
    | engine => exact hrest.engineStep hs ht
    | access a =>
      cases hs
      cases ht
      exact hrest.busAccess a
    | reset =>
      cases hs
      cases ht
      exact hrest.resetEvent

/-- Any number of steps of both. -/
theorem run (n : Nat) {s' t' : State} (hs : core.run n s = .next s')
    (ht : core.run n t = .next t') : SameSpecified s' t' := by
  induction n generalizing s t with
  | zero =>
    cases hs
    cases ht
    exact h
  | succ n ih =>
    obtain ⟨s₁, hs₁⟩ := step_next s
    obtain ⟨t₁, ht₁⟩ := step_next t
    rw [run_succ n hs₁] at hs
    rw [run_succ n ht₁] at ht
    exact ih (h.step hs₁ ht₁) hs ht

end SameSpecified

/-! ### Latencies -/

/-- With a command in flight the outcome that the latency looks at is that of the engine's turn. -/
theorem pendingOutcome_eq {s t : State} (hp : s.pending = true) (ht : engineStep s = .next t) :
    s.pendingOutcome = t.err := by
  have hself : { s with pending := true } = s := by rw [← hp]
  rw [State.pendingOutcome, hself, ht]

/-- The outcome that the latency looks at depends on the variant, ST and the word in LATCH. -/
theorem pendingOutcome_congr {s t : State} (hv : s.variant = t.variant) (hst : s.st = t.st)
    (hcmd : s.latch.cmd = t.latch.cmd) : s.pendingOutcome = t.pendingOutcome := by
  obtain ⟨s', hs⟩ := engineStep_next { s with pending := true }
  obtain ⟨t', ht⟩ := engineStep_next { t with pending := true }
  rw [State.pendingOutcome, State.pendingOutcome, hs, ht]
  exact (engineStep_twin (s := { s with pending := true }) (t := { t with pending := true })
    hv hst hcmd rfl rfl hs ht).err_eq

/-- A command whose outcome is an error takes LAT_REJECT (R256). -/
theorem latency_of_err {s : State} (h : s.pendingOutcome ≠ .none) :
    s.latency = Config.latReject s.variant := by
  rw [State.latency]
  split
  next h' _ => exact absurd h' h
  next => rfl

/-- A command whose outcome is no error takes its own latency (R256). -/
theorem latency_of_success {s : State} {i : Instr} (h : s.pendingOutcome = .none)
    (hd : decode s.latch.cmd = .ok i) : s.latency = successLatency s.variant i := by
  rw [State.latency, h, State.commandWord, hd]

/-- Every latency is at least one cycle (R256). -/
theorem latency_pos (s : State) : 1 ≤ s.latency := by
  rw [State.latency]
  split
  next i _ _ => cases i <;> exact Nat.succ_pos _
  next => exact Nat.succ_pos _

end Sys2Proof.Machine

open Sys2Proof Sys2Proof.Machine

/-- Settles O51: `SameSpecified` is kept by each kind of step (`SameSpecified.step`), so by any
number of them, and it covers all that an access answers. -/
theorem unspecifiedStateIsNeverObserved : Obligations.UnspecifiedStateIsNeverObserved := by
  unfold Obligations.UnspecifiedStateIsNeverObserved
  intro n s t s' t' h hs ht
  have h' := h.run n hs ht
  exact ⟨h', h'.response, h'.memRead_eq⟩

/-- Settles O22: two engines of one variant and one ST complete the command alike, and a success
writes what LATCH and KS give. -/
theorem outcomeDependsOnLatchStAndKsAlone : Obligations.OutcomeDependsOnLatchStAndKsAlone := by
  unfold Obligations.OutcomeDependsOnLatchStAndKsAlone
  intro i s t s' t' hv hl hst hks hs ht
  cases exec_twin hv hst hs ht with
  | failed e => simp [hv, hl, hst, hks]
  | constructed => simp [hv, hl]
  | crypted load run st =>
    refine ⟨rfl, by simp [hv], by simp [hst], by simp [hks], fun j => ?_, by simp [hl], rfl, rfl⟩
    by_cases hj : j.val < t.variant.nw <;> simp [hv, hl, hks, hj]

/-- Settles O41: no register that a read answers is among those the two engines differ in. -/
theorem keyMaterialCannotBeReadBack : Obligations.KeyMaterialCannotBeReadBack := by
  unfold Obligations.KeyMaterialCannotBeReadBack
  exact fun s t h off => h.readReg_eq (regAt off)

/-- Settles O52: the latency looks at the outcome, the word and the variant, and the outcome depends
on the word, ST and the variant. -/
theorem latencyDependsOnPublicValuesOnly : Obligations.LatencyDependsOnPublicValuesOnly := by
  unfold Obligations.LatencyDependsOnPublicValuesOnly
  intro s t hv hst hcmd
  simp only [State.latency, State.commandWord, pendingOutcome_congr hv hst hcmd, hcmd, hv]

/-- Settles O53: with the command in flight the outcome the latency looks at is the one its turn
reports. -/
theorem latencyFollowsTheOutcome : Obligations.LatencyFollowsTheOutcome := by
  unfold Obligations.LatencyFollowsTheOutcome
  intro s t hp ht
  have hout := pendingOutcome_eq hp ht
  exact ⟨latency_pos s, fun he => latency_of_err (hout ▸ he), fun he la lb =>
    ⟨latency_of_success (hout.trans he), latency_of_success (hout.trans he),
      latency_of_success (hout.trans he)⟩⟩
end

section
/-! SUPPORT. The rotations bit by bit and the block functions on the engine, with the proofs about
the Round Engine (R13, R147 to R156, R186). -/

namespace Sys2Proof.Machine

/-- A left rotation moves bit `i` to bit `(i + r) mod 64` (R13). -/
theorem getLsbD_rotl_add (x : Word) (r : Nat) {i : Nat} (hi : i < 64) :
    (rotl x r).getLsbD ((i + r) % 64) = x.getLsbD i := by
  rw [getLsbD_rotl x r (Nat.mod_lt _ (by decide))]
  congr 1
  omega

/-- A right rotation moves bit `(i + r) mod 64` back to bit `i` (R13). -/
theorem getLsbD_rotr (x : Word) (r : Nat) {i : Nat} (hi : i < 64) :
    (rotr x r).getLsbD i = x.getLsbD ((i + r) % 64) := by
  rw [rotr, getLsbD_rotl x _ hi]
  congr 1
  omega

/-- The amount of a rotation counts modulo 64 (R13). -/
theorem rotl_add_64 (x : Word) (r : Nat) : rotl x (r + 64) = rotl x r := by
  rw [rotl, rotl, Nat.add_mod_right]

/-- The inverse permutation gives back each position of the block (R147). -/
theorem permInvTable_permTable (v : Variant) :
    ∀ i < v.nw, (permInvTable v).getD ((permTable v).getD i 0) 0 = i := by
  cases v <;> decide

/-- ENCRYPT_BLOCK gives a block (R154). -/
theorem encryptBlock_length (v : Variant) (ks : List (List Word)) (x : List Word) :
    (encryptBlock v ks x).length = v.nw := by
  obtain ⟨n, hn⟩ := Nat.exists_eq_succ_of_ne_zero (nr_pos v).ne'
  rw [encryptBlock_eq_foldl, inject_length, hn, List.range_succ, List.foldl_concat, encBody_length]

/-- The words of a block written into a file are that block (R35). -/
theorem usedWords_writeBlock (v : Variant) (f : Vector Word 16) {block : List Word}
    (h : block.length = v.nw) : usedWords v (writeBlock v f block) = block := by
  have hlen : (usedWords v (writeBlock v f block)).length = block.length := by
    rw [usedWords_length, h]
  refine List.ext_getElem hlen fun j hj hj' => ?_
  have hnw := nw_le v
  have hget := usedWords_get v (writeBlock v f block) ⟨j, by omega⟩ (by simp only; omega)
  simpa [hj, hj', h ▸ hj'] using hget

/-- An ENCRYPT or DECRYPT that succeeds keeps the variant, ST and KS and writes the block function
of the latched block into DATA_OUT (R185, R186). -/
theorem exec_crypt_success {i : Instr} {la lb : BitVec 16}
    {block : Variant → List (List Word) → List Word → List Word}
    (hi : (i = .encrypt la lb ∧ block = encryptBlock) ∨
      (i = .decrypt la lb ∧ block = decryptBlock))
    {s t : State} (hst : s.st = .constructed) (ha : la.toNat = 8 * s.variant.nw)
    (hb : lb.toNat = 8 * s.variant.nw) (h : exec i s = .next t) :
    t.err = .none ∧ t.done = true ∧ t.variant = s.variant ∧ t.st = s.st ∧ t.ks = s.ks ∧
      t.dataOut = writeBlock s.variant s.dataOut (block s.variant s.ks s.latch.data) := by
  obtain ⟨load, run, hexec, hblock⟩ := exec_crypt_eq_doCrypt hi
  rw [hexec, doCrypt_of_lens_eq load run hst ha hb] at h
  cases h
  simp [hblock]

end Sys2Proof.Machine

open Sys2Proof Sys2Proof.Machine

/-- Settles O25: the library's rotation read bit by bit (`getLsbD_rotl`), in both directions. -/
theorem rotationsAreCircular : Obligations.RotationsAreCircular := by
  unfold Obligations.RotationsAreCircular
  exact fun x r i hi => ⟨getLsbD_rotl_add x r hi, getLsbD_rotr x r hi, rotl_add_64 x r⟩

/-- Settles O26: the two round trips on one pair. -/
theorem unmixInvertsMix : Obligations.UnmixInvertsMix := by
  unfold Obligations.UnmixInvertsMix
  exact fun a b r => ⟨unmix_mix a b r, mix_unmix a b r⟩

/-- Settles O27: the two round trips on a block, and the tables position by position. -/
theorem unpermuteInvertsPermute : Obligations.UnpermuteInvertsPermute := by
  unfold Obligations.UnpermuteInvertsPermute
  exact fun v f hf => ⟨unpermute_permute v hf, permute_unpermute v hf, permInvTable_permTable v⟩

/-- Settles O28: the two round trips of one round on a block. -/
theorem unroundInvertsRound : Obligations.UnroundInvertsRound := by
  unfold Obligations.UnroundInvertsRound
  exact fun v d x hx => ⟨unroundStep_roundStep v d hx, roundStep_unroundStep v d hx⟩

/-- Settles O32: ENCRYPT writes ENCRYPT_BLOCK of the latched block into DATA_OUT, whose used words
the second issue latches, and DECRYPT_BLOCK undoes it under the same KS. -/
theorem engineDecryptsWhatItEncrypted : Obligations.EngineDecryptsWhatItEncrypted := by
  unfold Obligations.EngineDecryptsWhatItEncrypted
  intro s t u la lb hst ha hb hlen ht hu
  obtain ⟨-, -, hv, hst', hks, hout⟩ := exec_crypt_success (.inl ⟨rfl, rfl⟩) hst ha hb ht
  generalize hm : State.issue (encode (.decrypt la lb)) { t with dataIn := t.dataOut } = m at hu
  have hmv : m.variant = s.variant := by rw [← hm]; exact hv
  have hmst : m.st = .constructed := by rw [← hm]; exact hst'.trans hst
  have hmks : m.ks = s.ks := by rw [← hm]; exact hks
  have hmdata : m.latch.data = encryptBlock s.variant s.ks s.latch.data := by
    rw [← hm, State.issue_latch, hout, hv]
    exact usedWords_writeBlock _ _ (encryptBlock_length _ _ _)
  obtain ⟨herr, -, -, -, -, hout'⟩ :=
    exec_crypt_success (.inr ⟨rfl, rfl⟩) hmst (hmv ▸ ha) (hmv ▸ hb) hu
  rw [hmv, hmks, hmdata, decryptBlock_encryptBlock _ _ hlen] at hout'
  refine ⟨herr, fun j hj => ?_⟩
  rw [hout']
  exact (writeBlock_get _ _ _ _ j.isLt).trans (if_pos hj)

/-- Settles O33, by evaluating the schedule and the block function of each variant. -/
theorem publishedZeroCiphertexts : Obligations.PublishedZeroCiphertexts := by
  unfold Obligations.PublishedZeroCiphertexts
  refine ⟨?_, ?_, ?_⟩ <;> decide +kernel
end

section
/-! SUPPORT. The fields of STATUS, the bytes of the window and the registers a step can change, with
the proofs about them (R14, R23, R31 to R34, R60, R66, R67). -/

namespace Sys2Proof.Machine

/-! ### The fields of STATUS -/

/-- The four flags of STATUS stand at bits 3..0 (R23). -/
theorem packStatus_flags (info : BitVec 16) (err : BitVec 4) (ov dn cs bs : Bool) :
    (packStatus info err ov dn cs bs).getLsbD 0 = bs ∧
    (packStatus info err ov dn cs bs).getLsbD 1 = cs ∧
    (packStatus info err ov dn cs bs).getLsbD 2 = dn ∧
    (packStatus info err ov dn cs bs).getLsbD 3 = ov := by
  simp only [packStatus, BitVec.getLsbD_append]
  simp

/-- ERR and ERR_INFO stand at their bits of STATUS, and the reserved bits are 0 (R23). -/
theorem packStatus_fields (info : BitVec 16) (err : BitVec 4) (ov dn cs bs : Bool) :
    (packStatus info err ov dn cs bs).extractLsb' 4 4 = 0#4 ∧
    (packStatus info err ov dn cs bs).extractLsb' 8 4 = err ∧
    (packStatus info err ov dn cs bs).extractLsb' 12 4 = 0#4 ∧
    (packStatus info err ov dn cs bs).extractLsb' 16 16 = info ∧
    (packStatus info err ov dn cs bs).extractLsb' 32 32 = 0#32 := by
  have hov := ov.toNat_le
  have hdn := dn.toNat_le
  have hcs := cs.toNat_le
  have hbs := bs.toNat_le
  refine ⟨?_, ?_, ?_, ?_, ?_⟩
  all_goals
    apply BitVec.eq_of_toNat_eq
    simp only [BitVec.extractLsb'_toNat, packStatus_toNat, Nat.shiftRight_eq_div_pow,
      BitVec.toNat_ofNat]
    omega

/-- STATUS with every field clear is 0. -/
theorem packStatus_clear : packStatus 0#16 0#4 false false false false = 0#64 := by decide

/-! ### Words and bytes -/

/-- A word is made of its eight byte lanes (R14). -/
theorem le64_byteLane (w : Word) :
    le64 (byteLane w 0) (byteLane w 1) (byteLane w 2) (byteLane w 3) (byteLane w 4) (byteLane w 5)
      (byteLane w 6) (byteLane w 7) = w := by
  rw [le64]
  unfold byteLane
  iterate 7 rw [BitVec.extractLsb'_append_extractLsb'_eq_extractLsb' (by rfl)]
  exact BitVec.extractLsb'_eq_self

/-- Word `j` of the bytes of a list of words is its word `j`. -/
theorem leWord_leBytes (ws : List Word) {j : Nat} (hj : j < ws.length) :
    leWord (leBytes ws) j = ws.getD j 0#64 := by
  simp only [leWord, leBytes_getD ws j _ hj, Nat.reduceLT]
  exact le64_byteLane _

/-- LEWORDS undoes LEBYTES (R14). -/
theorem leWords_leBytes (ws : List Word) : leWords (leBytes ws) ws.length = ws := by
  refine List.ext_getElem (leWords_length _ _) fun j _ hj => ?_
  simp [leWords, leWord_leBytes ws hj, hj]

/-- LEBYTES undoes LEWORDS on whole words (R14). -/
theorem leBytes_leWords (bs : List Byte) {n : Nat} (h : bs.length = 8 * n) :
    leBytes (leWords bs n) = bs := by
  refine List.ext_getElem (by simp [h]) fun i hi hi' => ?_
  have hj : i / 8 < (leWords bs n).length := by rw [leWords_length]; omega
  have hbyte := leBytes_getD (leWords bs n) (i / 8) (i % 8) hj (Nat.mod_lt _ (by decide))
  rw [leWords_getD _ _ _ (by omega), byteLane_leWord_div_mod, Nat.div_add_mod] at hbyte
  rwa [List.getD_eq_getElem _ _ hi, List.getD_eq_getElem _ _ hi'] at hbyte

/-! ### The bytes of the window -/

/-- The window's bytes from 0x280 are the result bytes (R67). -/
theorem windowByte_result (s : State) {i : Nat} (hi : i < 8 * s.variant.nw) :
    s.windowByte (0x280 + i) = s.resultBytes.getD i 0#8 := by
  have hnw := nw_le s.variant
  have hj : i / 8 < s.variant.nw := by omega
  have hb : i % 8 < 8 := Nat.mod_lt _ (by decide)
  have hbyte := windowByte_dataOut s ⟨i / 8, by omega⟩ (i % 8) hb hj
  rwa [← resultBytes_getD s _ _ hj hb, Nat.div_add_mod] at hbyte

/-- Two states whose variant and input registers are the same hold the same window byte, but for the
bytes of STATUS and of the used words of DATA_OUT. -/
theorem windowByte_congr {s t : State} (hv : t.variant = s.variant) (hk : t.keyIn = s.keyIn)
    (ht : t.tweakIn = s.tweakIn) (hd : t.dataIn = s.dataIn) {a : Nat}
    (hstatus : ¬(0x010 ≤ a ∧ a < 0x018))
    (hout : t.dataOut = s.dataOut ∨ ¬(0x280 ≤ a ∧ a < 0x280 + 8 * s.variant.nw)) :
    t.windowByte a = s.windowByte a := by
  suffices hreg : t.regWord (regAt (a / 8 * 8)) = s.regWord (regAt (a / 8 * 8)) by
    rw [State.windowByte, hreg, State.windowByte]
  have hoff := fun r (hr : regAt (a / 8 * 8) = r) => offset_eq_of_regAt (by omega) hr
  cases hr : regAt (a / 8 * 8) with
  | id => simp only [State.regWord, State.readReg, State.idWord, hv]
  | blockSize => simp only [State.regWord, State.readReg, State.blockSizeWord, hv]
  | status =>
    have := hoff _ hr (by simp)
    simp only [Reg.offset] at this
    omega
  | keyIn j => simp only [State.regWord, hv, hk]
  | tweakIn j => simp only [State.regWord, ht]
  | dataIn j => simp only [State.regWord, State.readReg, hv, hd]
  | dataOut j =>
    simp only [State.regWord, State.readReg, hv]
    rcases hout with hout | hout
    · rw [hout]
    · have := hoff _ hr (by simp)
      simp only [Reg.offset] at this
      rw [readSlot_reserved _ (by omega), readSlot_reserved _ (by omega)]
  | cmd | reserved => rfl

/-- No outcome of DO_CONSTRUCT changes a register of the window but STATUS (R184). -/
theorem doConstruct_registers (la lb : BitVec 16) (s : State) :
    (doConstruct la lb s).variant = s.variant ∧ (doConstruct la lb s).keyIn = s.keyIn ∧
      (doConstruct la lb s).tweakIn = s.tweakIn ∧ (doConstruct la lb s).dataIn = s.dataIn ∧
      (doConstruct la lb s).dataOut = s.dataOut := by
  rcases doConstruct_cases la lb s with ⟨_, e⟩ | ⟨_, _, e⟩ | ⟨_, _, _, e⟩ | ⟨_, _, _, e⟩ <;>
    simp [e]

/-- No outcome of DO_CRYPT changes an input register (R185). -/
theorem doCrypt_registers (load : Variant → List Word → Datapath)
    (run : Variant → List (List Word) → Datapath → Datapath) (la lb : BitVec 16) (s : State) :
    (doCrypt load run la lb s).variant = s.variant ∧ (doCrypt load run la lb s).keyIn = s.keyIn ∧
      (doCrypt load run la lb s).tweakIn = s.tweakIn ∧
      (doCrypt load run la lb s).dataIn = s.dataIn := by
  rcases doCrypt_cases load run la lb s with ⟨_, e⟩ | ⟨_, _, e⟩ | ⟨_, _, _, e⟩ <;> simp [e]

/-! ### The registers a step can change -/

/-- A completion keeps the input registers (R31, R32, R33). -/
theorem Completion.input_registers_eq {s t : State} (h : Completion s t) :
    t.keyIn = s.keyIn ∧ t.tweakIn = s.tweakIn ∧ t.dataIn = s.dataIn := by
  cases h <;> simp

/-- A step that is no reset and changes an input register is a host access. -/
theorem step_inputs_or_access {s t : State} (h : step s = .next t)
    (hr : s.inputs.head? ≠ some .reset) :
    (t.keyIn = s.keyIn ∧ t.tweakIn = s.tweakIn ∧ t.dataIn = s.dataIn) ∨
    ∃ a, s.inputs.head? = some (.access a) ∧
      t = State.busAccess a { s with inputs := s.inputs.tail } := by
  rcases step_head_cases h with ⟨_, ht⟩ | ⟨hh, _⟩ | ha
  · left
    rcases engineStep_cases ht with rfl | ⟨_, hc⟩
    · exact ⟨rfl, rfl, rfl⟩
    · exact hc.input_registers_eq
  · exact absurd hh hr
  · exact .inr ha

/-- A slot that a write of one slot changes is that slot, and it then holds the word written. -/
theorem set_get_changed {n : Nat} {f : Vector Word n} {j i : Fin n} {w : Word}
    (h : (f.set j w)[i] ≠ f[i]) : i = j ∧ (f.set j w)[i] = w := by
  by_cases hij : i = j
  · exact ⟨hij, by simp [hij]⟩
  · exact absurd (Vector.getElem_set_ne j.isLt i.isLt (Fin.val_ne_of_ne (Ne.symm hij))) h

/-- A host access that changes an input register is a write of its new value at its offset (R65). -/
theorem busAccess_input_changed (s : State) (a : BusAccess) :
    (∀ j : Fin 16, (s.busAccess a).keyIn[j] ≠ s.keyIn[j] → j.val < s.variant.nw ∧
      ∃ addr, a = ⟨addr, .bytes 8, .write (s.busAccess a).keyIn[j]⟩ ∧
        addr % 4096 = 0x100 + 8 * j.val) ∧
    (∀ j : Fin 2, (s.busAccess a).tweakIn[j] ≠ s.tweakIn[j] →
      ∃ addr, a = ⟨addr, .bytes 8, .write (s.busAccess a).tweakIn[j]⟩ ∧
        addr % 4096 = 0x180 + 8 * j.val) ∧
    (∀ j : Fin 16, (s.busAccess a).dataIn[j] ≠ s.dataIn[j] → j.val < s.variant.nw ∧
      ∃ addr, a = ⟨addr, .bytes 8, .write (s.busAccess a).dataIn[j]⟩ ∧
        addr % 4096 = 0x200 + 8 * j.val) := by
  obtain ⟨addr, width, kind⟩ := a
  have hcmd (w : Word) : (s.commandRequest w).keyIn = s.keyIn ∧
      (s.commandRequest w).tweakIn = s.tweakIn ∧ (s.commandRequest w).dataIn = s.dataIn := by
    unfold State.commandRequest
    split <;> exact ⟨rfl, rfl, rfl⟩
  obtain ⟨r, e | ⟨w, rfl, rfl, h⟩⟩ := busAccess_cases s ⟨addr, width, kind⟩
  · simp [e]
  · rcases h with ⟨_, _, e⟩ | ⟨_, e⟩ | ⟨j, ha, hj, e⟩ | ⟨j, ha, e⟩ | ⟨j, ha, hj, e⟩ <;> rw [e]
    · simp
    · obtain ⟨hk, ht, hd⟩ := hcmd w
      simp [hk, ht, hd]
    · refine ⟨fun i hi => ?_, by simp, by simp⟩
      obtain ⟨rfl, hw⟩ := set_get_changed hi
      exact ⟨hj, addr, by rw [hw], ha⟩
    · refine ⟨by simp, fun i hi => ?_, by simp⟩
      obtain ⟨rfl, hw⟩ := set_get_changed hi
      exact ⟨addr, by rw [hw], ha⟩
    · refine ⟨by simp, by simp, fun i hi => ?_⟩
      obtain ⟨rfl, hw⟩ := set_get_changed hi
      exact ⟨hj, addr, by rw [hw], ha⟩

/-- A completion that changes DATA_OUT is a success of ENCRYPT or DECRYPT (R34, R185). -/
theorem Completion.dataOut_changed {s t : State} (h : Completion s t)
    (hne : t.dataOut ≠ s.dataOut) :
    s.st = .constructed ∧ t.err = .none ∧
      ∃ la lb, (decode s.latch.cmd = .ok (.encrypt la lb) ∨
        decode s.latch.cmd = .ok (.decrypt la lb)) ∧
        la.toNat = 8 * s.variant.nw ∧ lb.toNat = 8 * s.variant.nw := by
  cases h with
  | failed | constructed => simp at hne
  | encrypted la lb dec st ha hb => exact ⟨st, rfl, la, lb, .inl dec, ha, hb⟩
  | decrypted la lb dec st ha hb => exact ⟨st, rfl, la, lb, .inr dec, ha, hb⟩

/-- The window looks at bits 11..0 of a host address only (R60). -/
theorem busAccess_add_4096 (s : State) (addr n : Nat) (width : AccessWidth) (kind : AccessKind) :
    s.busAccess ⟨addr + 4096 * n, width, kind⟩ = s.busAccess ⟨addr, width, kind⟩ := by
  have hoff : windowOffset (addr + 4096 * n) = windowOffset addr := Nat.add_mul_mod_self_left _ _ _
  have hacc : accepts ⟨addr + 4096 * n, width, kind⟩ = accepts ⟨addr, width, kind⟩ := by
    simp only [accepts, hoff]
  cases ha : accepts ⟨addr, width, kind⟩ with
  | false => rw [busAccess_refused s _ ha, busAccess_refused s _ (hacc.trans ha)]
  | true =>
    cases kind with
    | read =>
      rw [busAccess_read s _ ha rfl, busAccess_read s _ (hacc.trans ha) rfl]
      simp only [hoff]
    | write w =>
      rw [busAccess_write s _ w ha rfl, busAccess_write s _ w (hacc.trans ha) rfl]
      simp only [hoff]

end Sys2Proof.Machine

open Sys2Proof Sys2Proof.Machine

/-- Settles O4: a read of 0x010 is the packing of the fields, each read back at its bits, and a
write touches OVERRUN only (`memWrite_status`). -/
theorem statusFieldsStandInTheirBits : Obligations.StatusFieldsStandInTheirBits := by
  unfold Obligations.StatusFieldsStandInTheirBits
  intro s
  rw [memRead_status, State.statusWord]
  obtain ⟨h0, h1, h2, h3⟩ :=
    packStatus_flags s.errInfo s.err.code s.overrun s.done s.isConstructed s.busy
  obtain ⟨h4, h8, h12, h16, h32⟩ :=
    packStatus_fields s.errInfo s.err.code s.overrun s.done s.isConstructed s.busy
  refine ⟨h0, h1.trans (beq_eq_decide _ _), h2, h3, h4, h8, h12, h16, h32, fun w => ?_, fun v => ?_⟩
  · rw [memWrite_status]
    cases w.getLsbD 3 <;> simp
  · rw [memRead_status]
    exact packStatus_clear

/-- Settles O21: a command keeps the variant and the input registers, CONSTRUCT keeps DATA_OUT too,
and these are all that a byte outside STATUS and the result comes from (`windowByte_congr`). -/
theorem commandsChangeOnlyStatusAndResultBytes :
    Obligations.CommandsChangeOnlyStatusAndResultBytes := by
  unfold Obligations.CommandsChangeOnlyStatusAndResultBytes
  refine fun s t la lb a hstatus => ⟨fun h => ?_, fun i hi h hres => ?_⟩
  · cases h
    obtain ⟨hv, hk, ht, hd, hout⟩ := doConstruct_registers la lb s
    exact windowByte_congr hv hk ht hd hstatus (.inl hout)
  · rcases hi with rfl | rfl <;> cases h
    all_goals
      obtain ⟨hv, hk, ht, hd⟩ := doCrypt_registers _ _ la lb s
      exact windowByte_congr hv hk ht hd hstatus (.inr hres)

/-- Settles O38: BASE is a multiple of 4096, and an access goes through the offset only
(`busAccess_add_4096`). -/
theorem onlyTheLowTwelveAddressBitsCount : Obligations.OnlyTheLowTwelveAddressBitsCount := by
  unfold Obligations.OnlyTheLowTwelveAddressBitsCount
  refine ⟨fun off h => ?_, fun s addr n width kind rest => ?_⟩
  · rw [windowOffset, Config.base, Nat.mul_add_mod, Nat.mod_eq_of_lt h]
  · rw [step_access rfl, step_access rfl, busAccess_add_4096]

/-- Settles O39: each register holds the word that LEBYTES of its block has there
(`leWord_leBytes`), so the window's bytes are the block's. -/
theorem windowBytesAreTheBlockBytes : Obligations.WindowBytesAreTheBlockBytes := by
  unfold Obligations.WindowBytesAreTheBlockBytes
  refine fun s i => ⟨fun hi => ⟨?_, ?_, windowByte_result s hi⟩, fun hi => ?_⟩
  · refine windowByte_keyIn_of_words (fun j hj => ?_) hi
    rw [leWord_leBytes _ (by rwa [usedWords_length]), usedWords_get _ _ j hj]
  · refine windowByte_dataIn_of_words (fun j hj => ?_) hi
    rw [leWord_leBytes _ (by rwa [usedWords_length]), usedWords_get _ _ j hj]
  · refine windowByte_tweakIn_of_words (fun j => ?_) hi
    have hj : j.val < s.tweakIn.toList.length := by rw [Vector.length_toList]; exact j.isLt
    rw [leWord_leBytes _ hj, List.getD_eq_getElem _ _ hj]
    simp

/-- Settles O40: the lanes of a word taken apart and put together, for each word of the list. -/
theorem bytesAndWordsRoundTrip : Obligations.BytesAndWordsRoundTrip := by
  unfold Obligations.BytesAndWordsRoundTrip
  exact ⟨fun bs _ h => leBytes_leWords bs h, leWords_leBytes⟩

/-- Settles O49, by the kind of the step: a host access keeps DATA_OUT, and a completion that
changes it is a success of ENCRYPT or DECRYPT. -/
theorem dataOutChangesOnlyBySuccessfulCrypt : Obligations.DataOutChangesOnlyBySuccessfulCrypt := by
  unfold Obligations.DataOutChangesOnlyBySuccessfulCrypt
  intro s t h hne
  rcases step_head_cases h with ⟨hm, ht⟩ | ⟨hh, _⟩ | ⟨a, _, rfl⟩
  · rcases engineStep_cases ht with rfl | ⟨hp, hc⟩
    · exact absurd rfl hne
    · exact .inr ⟨hp, hm, hc.dataOut_changed hne⟩
  · exact .inl hh
  · exact absurd (busAccess_variant_dataOut_inputs { s with inputs := s.inputs.tail } a).2.1 hne

/-- Settles O50: only a host access changes an input register, and then by a write at its offset
(`busAccess_input_changed`). -/
theorem inputRegistersChangeOnlyByTheirOwnWrite :
    Obligations.InputRegistersChangeOnlyByTheirOwnWrite := by
  unfold Obligations.InputRegistersChangeOnlyByTheirOwnWrite
  intro s t h hr
  rcases step_inputs_or_access h hr with ⟨hk, ht, hd⟩ | ⟨a, hh, rfl⟩
  · simp [hk, ht, hd]
  · obtain ⟨hk, ht, hd⟩ := busAccess_input_changed { s with inputs := s.inputs.tail } a
    simp only [hh, Option.some.injEq, Event.access.injEq]
    exact ⟨hk, ht, hd⟩
end

section
/-! SUPPORT. The life of a command: its turn, the accesses while it is in flight, and the reset that
abandons it, with the proofs about them (R38, R181 to R183, R190, R222, R240, R257). -/

namespace Sys2Proof.Machine

/-! ### The engine's turn as a step -/

/-- When the engine moves with a command in flight, the step completes it (R182). -/
theorem step_completes {s : State} (hm : s.engineMoves) (hp : s.pending = true) :
    ∃ t, step s = .next t ∧ t.pending = false ∧ t.done = true := by
  obtain ⟨t, ht, hc⟩ := engineStep_pending { s with inputs := s.inputs.tail } hp
  obtain ⟨hpt, hdt, _⟩ := hc.status_eq
  exact ⟨t, (step_of_engineMoves hm).trans ht, hpt, hdt⟩

/-- When the engine moves with a command in flight, the step runs the command that its word decodes
to (R183). -/
theorem step_eq_exec {s : State} {i : Instr} (hm : s.engineMoves) (hp : s.pending = true)
    (hd : decode s.latch.cmd = .ok i) : step s = exec i { s with inputs := s.inputs.tail } := by
  rw [step_of_engineMoves hm,
    engineStep_of_decode_ok (s := { s with inputs := s.inputs.tail }) hp hd]

/-- A word of the opcode table decodes as the command word that is its number. -/
theorem decodeTableWord_eq_some_iff (nbits w : Nat) (i : Instr) :
    decodeTableWord nbits w = some i ↔ decode (BitVec.ofNat 64 (w % 2 ^ nbits)) = .ok i := by
  rw [decodeTableWord]
  cases decode (BitVec.ofNat 64 (w % 2 ^ nbits)) <;> simp

/-- One step as a run. -/
theorem run_one {s t : State} : core.run 1 s = .next t ↔ step s = .next t := by
  obtain ⟨u, hu⟩ := step_next s
  rw [run_succ 0 hu, hu]
  rfl

/-! ### Accesses while a command is in flight -/

/-- While a command is in flight a host access changes input registers, OVERRUN and the port's
answer at most (R38, R65, R181). -/
theorem busAccess_busy (s : State) (a : BusAccess) (hp : s.pending = true) :
    ∃ k tw d ov r, s.busAccess a =
      { s with keyIn := k, tweakIn := tw, dataIn := d, overrun := ov, response := r } := by
  obtain ⟨r, e | ⟨w, _, _, ⟨_, _, e⟩ | ⟨_, e⟩ | ⟨j, _, _, e⟩ | ⟨j, _, e⟩ | ⟨j, _, _, e⟩⟩⟩ :=
    busAccess_cases s a
  case inr.inr.inl =>
    rw [commandRequest_busy s w hp] at e
    exact ⟨_, _, _, _, _, e⟩
  all_goals exact ⟨_, _, _, _, _, e⟩

/-- Any number of host accesses while a command is in flight changes input registers, OVERRUN and
the port's answer at most, and `n` steps more go on from there. -/
theorem run_accesses_busy (accesses : List BusAccess) {s : State} {evs : List Event}
    (hp : s.pending = true) (h : s.inputs = accesses.map .access ++ evs) :
    ∃ k tw d ov r, ∀ n, core.run (accesses.length + n) s = core.run n { s with
      keyIn := k, tweakIn := tw, dataIn := d, overrun := ov, response := r, inputs := evs } := by
  induction accesses generalizing s with
  | nil =>
    refine ⟨s.keyIn, s.tweakIn, s.dataIn, s.overrun, s.response, fun n => ?_⟩
    rw [List.length_nil, Nat.zero_add, ← show s.inputs = evs from h]
  | cons a accesses ih =>
    have hstep := step_access (show s.inputs = .access a :: (accesses.map .access ++ evs) from h)
    obtain ⟨k, tw, d, ov, r, e⟩ :=
      busAccess_busy { s with inputs := accesses.map .access ++ evs } a hp
    rw [e] at hstep
    obtain ⟨k', tw', d', ov', r', hrun⟩ := ih (s := { s with
      inputs := accesses.map .access ++ evs, keyIn := k, tweakIn := tw, dataIn := d, overrun := ov
      response := r }) hp rfl
    refine ⟨k', tw', d', ov', r', fun n => ?_⟩
    rw [List.length_cons, Nat.succ_add, run_succ _ hstep, hrun]

/-- A command in flight completes at the engine's first turn, at the latest when the events are used
up (R257). -/
theorem run_completes (evs : List Event) {s : State} (hi : s.inputs = evs) (hp : s.pending = true)
    (hr : .reset ∉ evs) :
    ∃ k t, k ≤ evs.length + 1 ∧ core.run k s = .next t ∧ t.pending = false ∧ t.done = true := by
  induction evs generalizing s with
  | nil =>
    obtain ⟨t, ht, hend⟩ := step_completes (.inl hi) hp
    exact ⟨1, t, by simp, run_one.mpr ht, hend⟩
  | cons e evs ih =>
    cases e with
    | engine =>
      obtain ⟨t, ht, hend⟩ := step_completes (.inr (by simp [hi])) hp
      exact ⟨1, t, by simp, run_one.mpr ht, hend⟩
    | reset => simp at hr
    | access a =>
      obtain ⟨k, tw, d, ov, r, e⟩ := busAccess_busy { s with inputs := evs } a hp
      obtain ⟨n, t, hn, hrun, hend⟩ := ih (s := State.busAccess a { s with inputs := evs })
        (by rw [e]) (by rw [e]; exact hp) (fun h => hr (List.mem_cons_of_mem _ h))
      exact ⟨n + 1, t, by simpa using hn, (run_succ n (step_access hi)).trans hrun, hend⟩

end Sys2Proof.Machine

open Sys2Proof Sys2Proof.Machine

/-- Settles O16, by the events still to come: an access leaves the command in flight, and the
engine's turn completes it. -/
theorem everyIssuedCommandCompletes : Obligations.EveryIssuedCommandCompletes := by
  unfold Obligations.EveryIssuedCommandCompletes
  exact fun s hp hr => run_completes s.inputs rfl hp hr

/-- Settles O17: the accesses change nothing that a completion depends on (`run_accesses_busy`), so
the two engines complete the word in LATCH alike (`engineStep_twin`). -/
theorem hostAccessesDoNotDisturbTheCommandInFlight :
    Obligations.HostAccessesDoNotDisturbTheCommandInFlight := by
  unfold Obligations.HostAccessesDoNotDisturbTheCommandInFlight
  intro s accesses rest t u hp hi ht hu
  obtain ⟨k, tw, d, ov, r, hrun⟩ := run_accesses_busy accesses hp hi
  rw [hrun, run_one, step_of_engineMoves (.inr rfl)] at ht
  rw [step_of_engineMoves (.inr rfl)] at hu
  have htwin := engineStep_twin (by rfl) (by rfl) (by rfl) (by exact hp) (by exact hp) ht hu
  cases htwin <;> simp

/-- Settles O18: the completion leaves an idle engine with OVERRUN as it was, and the write then
issues. -/
theorem cmdWriteAfterCompletionIssues : Obligations.CmdWriteAfterCompletionIssues := by
  unfold Obligations.CmdWriteAfterCompletionIssues
  intro s addr w rest hp ha hi
  have hm : s.engineMoves := .inr (by simp [hi])
  obtain ⟨t, ht, hc⟩ := engineStep_pending { s with inputs := s.inputs.tail } hp
  obtain ⟨hpt, _, _⟩ := hc.status_eq
  have hit : t.inputs = .access ⟨addr, .bytes 8, .write w⟩ :: rest := by
    rw [hc.variant_inputs_eq.2, hi, List.tail_cons]
  have hwrite := step_alignedWrite (by omega) hit
  rw [ha, memWrite_cmd, commandRequest_inputs, commandRequest_idle t w hpt] at hwrite
  have hrun := (run_succ 1 ((step_of_engineMoves hm).trans ht)).trans (run_one.mpr hwrite)
  exact ⟨_, hrun, rfl, rfl, hc.overrun_eq, rfl⟩

/-- Settles O23: the encoded word decodes to the command, and DO_CRYPT on a constructed engine with
both lengths right succeeds. -/
theorem constructedEngineNeverFailsWellFormedWords :
    Obligations.ConstructedEngineNeverFailsWellFormedWords := by
  unfold Obligations.ConstructedEngineNeverFailsWellFormedWords
  intro s i la lb hi hp hm hst hwf hcmd
  obtain ⟨block, hblock⟩ : ∃ block, (i = .encrypt la lb ∧ block = encryptBlock) ∨
      (i = .decrypt la lb ∧ block = decryptBlock) := by
    rcases hi with h | h
    · exact ⟨_, .inl ⟨h, rfl⟩⟩
    · exact ⟨_, .inr ⟨h, rfl⟩⟩
  obtain ⟨ha, hb⟩ : la.toNat = 8 * s.variant.nw ∧ lb.toNat = 8 * s.variant.nw := by
    rcases hi with rfl | rfl <;> exact (Instr.wf_iff _ _).mp hwf
  obtain ⟨t, ht⟩ := step_next s
  have hexec := ht
  rw [step_eq_exec hm hp (hcmd ▸ decode_encode i)] at hexec
  obtain ⟨herr, hdone, _, hstt, hks, _⟩ :=
    exec_crypt_success (s := { s with inputs := s.inputs.tail }) hblock hst ha hb hexec
  exact ⟨t, ht, herr, hdone, hstt.trans hst, hks⟩

/-- Settles O2: the reset event's fields are the reset values, and with nothing in flight the
engine's turn changes nothing. -/
theorem resetEventAbandonsTheCommand : Obligations.ResetEventAbandonsTheCommand := by
  unfold Obligations.ResetEventAbandonsTheCommand
  intro s rest h
  refine ⟨State.resetEvent { s with inputs := rest }, by simp [step, h, handleEvent], rfl,
    packStatus_clear, rfl, rfl, fun j => ?_, fun j => ?_, engineStep_idle _ rfl, rfl, rfl⟩ <;> simp

/-- Settles O11: the engine's turn is `exec` of the decoded command, and a placed word is issued
with that turn first. -/
theorem stepRunsTheDecodedCommand : Obligations.StepRunsTheDecodedCommand := by
  unfold Obligations.StepRunsTheDecodedCommand
  refine ⟨fun s i hp hm hd => step_eq_exec hm hp hd, fun s nbits w i hd => ?_⟩
  exact step_eq_exec (s := s.withFetchWord nbits w) (.inr rfl) rfl
    ((decodeTableWord_eq_some_iff _ _ _).mp hd)

/-- Settles O12: the idle engine's turn leaves the state, with that turn taken off the events. -/
theorem idleEngineChangesNothing : Obligations.IdleEngineChangesNothing := by
  unfold Obligations.IdleEngineChangesNothing
  exact fun s hp hm => (step_of_engineMoves hm).trans (engineStep_idle _ hp)
end

section
/-! SUPPORT. A host at a POLL: the turns that leave it there and the read that ends it, with the
proofs about POLL (R100, R250, K-14). -/

namespace Sys2Proof.Machine

/-- With nothing in flight and nothing completed, reads of STATUS go on for ever without a word that
ends a POLL (R250). -/
theorem run_statusReads_idle {k n : Nat} (hk : k ≤ n) {s : State} (hp : s.pending = false)
    (hd : s.done = false) (hi : s.inputs = List.replicate n (rd .status)) :
    ∃ t, core.run k s = .next t ∧ pollEnds (t.memRead 0x010) = false := by
  induction k generalizing n s with
  | zero => exact ⟨s, rfl, by rw [memRead_status, pollEnds_statusWord, hd, Bool.and_false]⟩
  | succ k ih =>
    obtain ⟨m, rfl⟩ := Nat.exists_eq_add_of_le' (Nat.one_le_of_lt hk)
    rw [List.replicate_succ] at hi
    rw [run_succ k (step_rd hi)]
    exact ih (Nat.le_of_succ_le_succ hk) hp hd rfl

/-- A host at a POLL with nothing in flight and nothing completed is there after any turns (K-14).
-/
theorem run_poll_idle (turns : List Turn) {r : HostRun} {rest : List HostLine}
    (h : r.lines = ⟨rd .status, true⟩ :: rest) (hp : r.machine.pending = false)
    (hd : r.machine.done = false) :
    ∃ t, r.run turns = .next t ∧ t.lines = r.lines ∧ t.machine.pending = false ∧
      t.machine.done = false := by
  induction turns generalizing r with
  | nil => exact ⟨r, rfl, rfl, hp, hd⟩
  | cons e turns ih =>
    obtain ⟨u, hu, hlines, hpu, hdu⟩ : ∃ u, r.turn e = .next u ∧ u.lines = r.lines ∧
        u.machine.pending = false ∧ u.machine.done = false := by
      cases e with
      | host => exact ⟨_, turn_poll r rest h, by simp [hd], hp, hd⟩
      | engine =>
        refine ⟨r, ?_, rfl, hp, hd⟩
        rw [HostRun.turn, engineStep_idle _ hp, HostRun.goOn]
      | reset => exact ⟨_, rfl, rfl, rfl, rfl⟩
    rw [hostRun_cons turns hu, ← hlines]
    exact ih (hlines.trans h) hpu hdu

/-- While a command is in flight the host's reads at a POLL change the port's answer only. -/
theorem run_poll_busy (n : Nat) (es : List Turn) {r : HostRun} {rest : List HostLine}
    (h : r.lines = ⟨rd .status, true⟩ :: rest) (hp : r.machine.pending = true) :
    ∃ ans : Option BusResponse, r.run (List.replicate n Turn.host ++ es) =
      HostRun.run es ⟨{ r.machine with response := ans }, r.lines⟩ := by
  induction n generalizing r with
  | zero =>
    refine ⟨r.machine.response, ?_⟩
    rw [List.replicate_zero, List.nil_append]
  | succ n ih =>
    have hturn := turn_poll r rest h
    rw [hp, Bool.not_true, Bool.false_and, if_neg Bool.false_ne_true] at hturn
    obtain ⟨ans, hrun⟩ := ih (r := ⟨{ r.machine with
      response := some (.data r.machine.statusWord) }, r.lines⟩) h hp
    refine ⟨ans, ?_⟩
    rw [List.replicate_succ, List.cons_append, hostRun_cons _ hturn, hrun]

/-- With nothing in flight the engine's turns leave the run as it is. -/
theorem run_engine_idle (n : Nat) (es : List Turn) {r : HostRun} (hp : r.machine.pending = false) :
    r.run (List.replicate n Turn.engine ++ es) = r.run es := by
  induction n with
  | zero => rfl
  | succ n ih =>
    have hturn : r.turn .engine = .next r := by
      rw [HostRun.turn, engineStep_idle _ hp, HostRun.goOn]
    rw [List.replicate_succ, List.cons_append, hostRun_cons _ hturn, ih]

/-- A host at a POLL with a command in flight leaves it with its first read after the completion. -/
theorem run_poll_completes (idle : Nat) {r : HostRun} {rest : List HostLine}
    (h : r.lines = ⟨rd .status, true⟩ :: rest) (hp : r.machine.pending = true) :
    ∃ t, r.run (Turn.engine :: (List.replicate idle Turn.engine ++ [Turn.host])) = .next t ∧
      t.lines = rest ∧ t.machine.pending = false ∧ t.machine.done = true ∧
      t.machine.response = some (.data t.machine.statusWord) := by
  obtain ⟨m, hm, hc⟩ := engineStep_pending r.machine hp
  obtain ⟨hpm, hdm, _⟩ := hc.status_eq
  have hturn : r.turn .engine = .next ⟨m, r.lines⟩ := by rw [HostRun.turn, hm, HostRun.goOn]
  have hpoll := turn_poll ⟨m, r.lines⟩ rest h
  refine ⟨⟨{ m with response := some (.data m.statusWord) }, rest⟩, ?_, rfl, hpm, hdm, rfl⟩
  rw [hostRun_cons _ hturn, run_engine_idle _ _ hpm, hostRun_cons _ hpoll]
  simp [hpm, hdm, HostRun.run]

end Sys2Proof.Machine

open Sys2Proof Sys2Proof.Machine

/-- Settles O43: each read leaves BUSY and DONE as they are, and DONE = 0 fails POLL's test. -/
theorem pollWithoutIssueNeverEnds : Obligations.PollWithoutIssueNeverEnds := by
  unfold Obligations.PollWithoutIssueNeverEnds
  exact fun s n hp hd hi k hk => run_statusReads_idle hk hp hd hi

/-- Settles O55: the host's turn at a POLL is one read of STATUS, whose test is BUSY = 0 and DONE =
1 (`turn_poll`). -/
theorem pollRepeatsItsReadUntilTheTestHolds : Obligations.PollRepeatsItsReadUntilTheTestHolds := by
  unfold Obligations.PollRepeatsItsReadUntilTheTestHolds
  intro r v rest h
  rw [turn_poll r rest h]
  refine ⟨fun hp hd => by simp [hp, hd], ?_⟩
  rintro (hp | hd)
  · simp [hp]
  · simp [hd]

/-- Settles O56: each kind of turn keeps the host at the POLL and the engine idle (`run_poll_idle`).
-/
theorem pollWithNoCommandIsStuck : Obligations.PollWithNoCommandIsStuck := by
  unfold Obligations.PollWithNoCommandIsStuck
  exact fun turns r v rest h hp hd => run_poll_idle turns h hp hd

/-- Settles O57: the early reads keep the host at the POLL (`run_poll_busy`), and after the engine's
turn its next read ends it (`run_poll_completes`). -/
theorem pollEndsAfterTheCompletionItFollows : Obligations.PollEndsAfterTheCompletionItFollows := by
  unfold Obligations.PollEndsAfterTheCompletionItFollows
  intro r v rest early idle h hp
  refine ⟨?_, ?_⟩
  · obtain ⟨ans, hrun⟩ := run_poll_busy early [] h hp
    rw [List.append_nil] at hrun
    exact ⟨_, hrun, rfl, hp⟩
  · obtain ⟨ans, hrun⟩ :=
      run_poll_busy early (Turn.engine :: (List.replicate idle Turn.engine ++ [Turn.host])) h hp
    rw [hrun]
    exact run_poll_completes idle (r := ⟨{ r.machine with response := ans }, r.lines⟩) h hp
end
